-- ==== Sys2Proof/Word.lean ====
section
/-! DEFINITION. The words of narm-core and the fixed sets of names its spec uses (00_scope R12, R14, R15). -/

namespace Sys2Proof

/-- One byte slot, or the DATA field of a word (20_memory R51). -/
abbrev Byte := BitVec 8

/-- A 16-bit request word W (30_encoding R70). -/
abbrev ReqWord := BitVec 16

/-- The timeout operand of a WaitUpTo request, TMO_W = 32 bits (00_scope R10). -/
abbrev Tmo := BitVec 32

/-- A 32-bit response word RSP (30_encoding R75). -/
abbrev RspWord := BitVec 32

/-- A queue pointer or a gray-coded view of one: K+1 bits, K at most 15 (10_state R23 to R26, 30_encoding R75),
held in the low K+1 bits of 16. -/
abbrev Ptr := BitVec 16

/-- The two queue instances of a port (10_state R20). -/
inductive QId where
  | tx
  | rx
deriving DecidableEq, Repr, Inhabited

/-- The two request ports of an instance: H, the foreground, and D, the UART side (00_scope R2). -/
inductive ReqPort where
  | host
  | device
deriving DecidableEq, Repr, Inhabited

/-- The wait policies NoWait, WaitForever and WaitUpTo(N) (00_scope R15, 30_encoding R71). -/
inductive Policy where
  | noWait
  | forever
  | upTo (n : Tmo)
deriving DecidableEq, Repr, Inhabited

end Sys2Proof
end

