-- ==== Sys2Proof/Syntax.lean ====
section
/-! DEFINITION. The decoded requests, one constructor per row of spec/opcode_table.json (30_encoding R73, R74). -/

namespace Sys2Proof

/-- The request transactions. A decoded request carries its byte and its TMO operand (30_encoding R74). -/
inductive Instr where
  /-- NOP (40_queue_ops R115). -/
  | nop
  /-- ENQ.TX.NW b (40_queue_ops R100). -/
  | enqTxNw (b : Byte)
  /-- ENQ.TX.WF b (40_queue_ops R100). -/
  | enqTxWf (b : Byte)
  /-- ENQ.TX.WT b, #tmo (40_queue_ops R100). -/
  | enqTxWt (b : Byte) (tmo : Tmo)
  /-- DEQ.RX.NW (40_queue_ops R106). -/
  | deqRxNw
  /-- DEQ.RX.WF (40_queue_ops R106). -/
  | deqRxWf
  /-- DEQ.RX.WT #tmo (40_queue_ops R106). -/
  | deqRxWt (tmo : Tmo)
  /-- TXSVC (41_device_service R130). -/
  | txsvc
  /-- RXSVC b (41_device_service R134). -/
  | rxsvc (b : Byte)
  /-- ARMTX (42_irq_and_flag R150). -/
  | armtx
  /-- ARMRX (42_irq_and_flag R153). -/
  | armrx
  /-- OVFRD (42_irq_and_flag R155). -/
  | ovfrd
  /-- OVFCLR (42_irq_and_flag R157). -/
  | ovfclr
  /-- LVL.TX (40_queue_ops R112). -/
  | lvlTx
  /-- LVL.RX (40_queue_ops R112). -/
  | lvlRx
deriving DecidableEq, Repr, Inhabited

end Sys2Proof
end

