-- ==== Sys2Proof/Config.lean ====
section
/-! DEFINITION. What an implementation fixes (the OPEN parameters), what the environment draws at each step,
and the free values: opaque constants with no body. -/

namespace Sys2Proof

/-- SYNC_STAGES, a depth in {0} ∪ {2, 3, ...} (00_scope R8): `bypassed` is 0, `chain n` is n + 2. -/
inductive SyncStages where
  | bypassed
  | chain (beyondTwo : Nat)
deriving DecidableEq, Repr, Inhabited

/-- The depth as the number the spec uses (00_scope R8). -/
def SyncStages.depth : SyncStages → Nat
  | .bypassed => 0
  | .chain n => n + 2

/-- Whether the block has one clock domain, SYNC_STAGES = 0 (43_sync_steps R181). -/
def SyncStages.isBypassed : SyncStages → Bool
  | .bypassed => true
  | .chain _ => false

/-- The OPEN parameters the model takes as an argument: K (00_scope R7, at most 15 by 30_encoding R75), SYNC_STAGES
(R8), and the identifiers of the compiled-in ports, instance after instance (R9, 44_host_sequences R200). DESIGN CHOICE (log entry 1):
all instances have the same K and the same SYNC_STAGES; the spec says so only of the two queues of one port (R7). -/
structure Params where
  k : Fin 16
  sync : SyncStages
  portIds : List Nat
deriving DecidableEq, Repr

/-- The queue capacity C = 2^K (00_scope R7). -/
def Params.cap (p : Params) : Nat := 2 ^ p.k.val

/-- The modulus 2C = 2^(K+1) of every pointer sum and difference (00_scope R12). -/
def Params.span (p : Params) : Nat := 2 ^ (p.k.val + 1)

/-- WRITE_FAIL_MODE (00_scope R11). -/
inductive WriteFailMode where
  | errAlways
  | partialCount
deriving DecidableEq, Repr, Inhabited

/-- The environment inputs sampled at a step (10_state R38). -/
structure Inputs where
  txReady : Bool
  rxHasData : Bool
  rxByte : Byte
  tmoExpired : Bool
deriving DecidableEq, Repr, Inhabited

/-- The five crossings of the synchronizer agent S (43_sync_steps R180). -/
inductive Crossing where
  | txw
  | txr
  | rxw
  | rxr
  | ovf
deriving DecidableEq, Repr, Inhabited

/-- The timeout argument of read and getchar: the source's number, or the wait policy itself as a host built per DOC §9
passes it (44_host_sequences R212). DESIGN CHOICE (log entry 15): the number has the 32 bits of the TMO operand. -/
inductive Timeout where
  | units (n : Tmo)
  | policy (pol : Policy)
deriving DecidableEq, Repr, Inhabited

/-- The Driver API calls (44_host_sequences R202 to R214). `writeWith` is the write variant that issues enqueues of a given
policy (R207); `write` is the default, WaitForever. -/
inductive ApiCall where
  | init (baud : Nat)
  | setAutocrlf (enabled : Bool)
  | write (bytes : List Byte)
  | writeWith (pol : Policy) (bytes : List Byte)
  | putchar (b : Byte)
  | read (maxLen : Nat) (timeout : Timeout)
  | getchar (timeout : Timeout)
  | rxOverflow
  | clearRxOverflow
deriving DecidableEq, Repr, Inhabited

/-- Who takes the next step, and with what (20_memory R60: one total order of the steps of H, D and S; 30_encoding R81: the
steps that have no word). `inst` numbers the port instances from 0. -/
inductive Event where
  /-- H presents a request word and a TMO operand (40_queue_ops R116, issue step). -/
  | host (inst : Nat) (w : ReqWord) (tmo : Tmo)
  /-- D presents a request word (41_device_service R138). -/
  | device (inst : Nat) (w : ReqWord)
  /-- The complete step of a held host request (40_queue_ops R116). -/
  | complete (inst : Nat)
  /-- A synchronizer step (43_sync_steps R182 to R187). -/
  | sync (inst : Nat) (c : Crossing)
  /-- The TMO step (43_sync_steps R190). -/
  | timeout (inst : Nat)
  /-- The host calls a Driver API function with a port identifier (44_host_sequences). -/
  | call (portId : Nat) (c : ApiCall)
  /-- The running host sequence of an instance takes its next move (44_host_sequences). -/
  | driver (inst : Nat)
  /-- Power-on reset (70_reset_and_hazards R270). -/
  | reset
deriving DecidableEq, Repr, Inhabited

/-- One draw of the environment: the agent that moves, and the inputs it sees (10_state R38). -/
structure Draw where
  inputs : Inputs
  event : Event
deriving DecidableEq, Repr, Inhabited

/-- FREE VALUE (log entry 2): the byte a storage slot holds after power-on before anything is written to it, by the number of
resets taken, the instance, the queue and the slot (10_state R22, 93_implementation_defined I1). -/
opaque Config.slotReset (epoch inst : Nat) (q : QId) (slot : Nat) : Byte

/-- FREE VALUE (log entry 3): the environment's draw at a step for which no draw was placed (10_state R38, 93 I3, I8). -/
opaque Config.envDraw (tick : Nat) : Draw

/-- FREE VALUE (log entry 16): how many free draws come before a turn of the weakly fair events (43_sync_steps R189: any finite
number). -/
opaque Config.fairWait (turn : Nat) : Nat

/-- OPEN (log entry 15): the host-sequence parameter WRITE_FAIL_MODE (00_scope R11). -/
opaque Config.writeFailMode : WriteFailMode

/-- OPEN (log entry 15): the host constant TIMEOUT_FOREVER, whose value no source gives (44_host_sequences R212).
DESIGN CHOICE (log entry 15): it is one of the 2^32 numbers that the timeout argument can be. -/
opaque Config.timeoutForever : Tmo

end Sys2Proof
end

