-- ==== Sys2Proof/WellFormed.lean ====
section
/-! DEFINITION. Which decoded requests and which parameters are well formed. -/

namespace Sys2Proof

/-- A decoded WaitUpTo request has a TMO that is not 0: with 0 it is decoded as NoWait (30_encoding R72). Every other request
has a word whatever its operand. -/
def Instr.wf : Instr → Bool
  | .nop => true
  | .enqTxNw _ => true
  | .enqTxWf _ => true
  | .enqTxWt _ tmo => tmo != 0
  | .deqRxNw => true
  | .deqRxWf => true
  | .deqRxWt tmo => tmo != 0
  | .txsvc => true
  | .rxsvc _ => true
  | .armtx => true
  | .armrx => true
  | .ovfrd => true
  | .ovfclr => true
  | .lvlTx => true
  | .lvlRx => true

/-- NPORTS is at least 1 and no identifier names two instances (00_scope R9). -/
def Params.wf (p : Params) : Bool := decide (p.portIds ≠ [] ∧ p.portIds.Nodup)

end Sys2Proof
end

