-- ==== Sys2Proof/Decode.lean ====
section
/-! DEFINITION. The request decoder, total on any word and rejecting by name (30_encoding R70 to R79), the encoder written
from the same table, and the response word (R75, R76). -/

namespace Sys2Proof

/-- Why a word decodes to ILLEGAL (30_encoding R77). Every reason gives the same answer (R74). -/
inductive Illegal where
  /-- RSV = 1. -/
  | reservedBitSet
  /-- POL = 11. -/
  | reservedPolicy
  /-- A word of an operation the other request port alone may spell (R79). -/
  | wrongPort
  /-- A Q value its operation does not allow. -/
  | wrongQueue
  /-- A non-zero field its operation does not use. -/
  | unusedFieldSet
  /-- OP in 0xA to 0xF. -/
  | reservedOp
deriving DecidableEq, Repr

/-- W[15:12] (30_encoding R70). -/
def reqOp (w : ReqWord) : BitVec 4 := w.extractLsb' 12 4

/-- W[11:10] (30_encoding R70). -/
def reqPol (w : ReqWord) : BitVec 2 := w.extractLsb' 10 2

/-- W[9] (30_encoding R70). -/
def reqQ (w : ReqWord) : Bool := w.getLsbD 9

/-- W[8] (30_encoding R70). -/
def reqRsv (w : ReqWord) : Bool := w.getLsbD 8

/-- W[7:0] (30_encoding R70). -/
def reqData (w : ReqWord) : Byte := w.extractLsb' 0 8

/-- The policy ENQ and DEQ read from POL and TMO: POL = 10 with TMO = 0 is normalised to NoWait, and TMO is ignored for the
other policies (30_encoding R71, R72). POL = 11 never reaches here (R74). -/
def reqPolicy (w : ReqWord) (tmo : Tmo) : Policy :=
  if reqPol w = 0b10 then (if tmo = 0 then .noWait else .upTo tmo)
  else if reqPol w = 0b01 then .forever
  else .noWait

/-- The ENQ request of a policy (40_queue_ops R100). -/
def Policy.enq (pol : Policy) (b : Byte) : Instr :=
  match pol with
  | .noWait => .enqTxNw b
  | .forever => .enqTxWf b
  | .upTo n => .enqTxWt b n

/-- The DEQ request of a policy (40_queue_ops R106). -/
def Policy.deq (pol : Policy) : Instr :=
  match pol with
  | .noWait => .deqRxNw
  | .forever => .deqRxWf
  | .upTo n => .deqRxWt n

/-- A word that is legal only on port `need` and only as `ok` says (one row of 30_encoding R74). -/
def onPort (port need : ReqPort) (ok : Except Illegal Instr) : Except Illegal Instr :=
  if port = need then ok else .error .wrongPort

/-- A word that must be exactly the row's word (30_encoding R73). -/
def exactly (w row : ReqWord) (i : Instr) : Except Illegal Instr :=
  if w = row then .ok i
  else if reqQ w = reqQ row then .error .unusedFieldSet
  else .error .wrongQueue

/-- Decoding, a total function of the request port, the word and the TMO operand (30_encoding R74). -/
def decode (port : ReqPort) (w : ReqWord) (tmo : Tmo) : Except Illegal Instr :=
  if reqRsv w then .error .reservedBitSet
  else if reqPol w = 0b11 then .error .reservedPolicy
  else match (reqOp w).toNat with
    | 0x0 => exactly w 0x0000 .nop
    | 0x1 => onPort port .host (if reqQ w then .error .wrongQueue else .ok ((reqPolicy w tmo).enq (reqData w)))
    | 0x2 => onPort port .host
        (if !reqQ w then .error .wrongQueue
         else if reqData w = 0 then .ok (reqPolicy w tmo).deq
         else .error .unusedFieldSet)
    | 0x3 => onPort port .device (exactly w 0x3000 .txsvc)
    | 0x4 => onPort port .device
        (if !reqQ w then .error .wrongQueue
         else if reqPol w = 0 then .ok (.rxsvc (reqData w))
         else .error .unusedFieldSet)
    | 0x5 => onPort port .host (exactly w 0x5000 .armtx)
    | 0x6 => onPort port .host (exactly w 0x6200 .armrx)
    | 0x7 => onPort port .host (exactly w 0x7200 .ovfrd)
    | 0x8 => onPort port .host (exactly w 0x8200 .ovfclr)
    | 0x9 => onPort port .host
        (if reqPol w = 0 ∧ reqData w = 0 then .ok (if reqQ w then .lvlRx else .lvlTx)
         else .error .unusedFieldSet)
    | _ => .error .reservedOp

/-- A request word from its fields, OP at bit 12, POL at bit 10, Q at bit 9, RSV = 0, DATA at bit 0 (30_encoding R70). -/
def reqWord (op : BitVec 4) (pol : BitVec 2) (q : BitVec 1) (data : Byte) : ReqWord :=
  (op.setWidth 16 <<< 12) ||| (pol.setWidth 16 <<< 10) ||| (q.setWidth 16 <<< 9) ||| data.setWidth 16

/-- The word and the TMO operand that spell a request (30_encoding R73). TMO is 0 where the request has none. -/
def Instr.encode : Instr → ReqWord × Tmo
  | .nop => (reqWord 0x0 0b00 0 0, 0)
  | .enqTxNw b => (reqWord 0x1 0b00 0 b, 0)
  | .enqTxWf b => (reqWord 0x1 0b01 0 b, 0)
  | .enqTxWt b tmo => (reqWord 0x1 0b10 0 b, tmo)
  | .deqRxNw => (reqWord 0x2 0b00 1 0, 0)
  | .deqRxWf => (reqWord 0x2 0b01 1 0, 0)
  | .deqRxWt tmo => (reqWord 0x2 0b10 1 0, tmo)
  | .txsvc => (reqWord 0x3 0b00 0 0, 0)
  | .rxsvc b => (reqWord 0x4 0b00 1 b, 0)
  | .armtx => (reqWord 0x5 0b00 0 0, 0)
  | .armrx => (reqWord 0x6 0b00 1 0, 0)
  | .ovfrd => (reqWord 0x7 0b00 1 0, 0)
  | .ovfclr => (reqWord 0x8 0b00 1 0, 0)
  | .lvlTx => (reqWord 0x9 0b00 0 0, 0)
  | .lvlRx => (reqWord 0x9 0b00 1 0, 0)

/-- The request ports a request may be spelled on (30_encoding R73, R79, 60_exceptions R248). -/
def Instr.legalOn : Instr → ReqPort → Bool
  | .nop, _ => true
  | .txsvc, p => p == .device
  | .rxsvc _, p => p == .device
  | .enqTxNw _, p => p == .host
  | .enqTxWf _, p => p == .host
  | .enqTxWt _ _, p => p == .host
  | .deqRxNw, p => p == .host
  | .deqRxWf, p => p == .host
  | .deqRxWt _, p => p == .host
  | .armtx, p => p == .host
  | .armrx, p => p == .host
  | .ovfrd, p => p == .host
  | .ovfclr, p => p == .host
  | .lvlTx, p => p == .host
  | .lvlRx, p => p == .host

/-- Whether a request may hold: only ENQ and DEQ with WaitForever or WaitUpTo (40_queue_ops R117). -/
def Instr.mayHold : Instr → Bool
  | .enqTxWf _ => true
  | .enqTxWt _ _ => true
  | .deqRxWf => true
  | .deqRxWt _ => true
  | .nop => false
  | .enqTxNw _ => false
  | .deqRxNw => false
  | .txsvc => false
  | .rxsvc _ => false
  | .armtx => false
  | .armrx => false
  | .ovfrd => false
  | .ovfclr => false
  | .lvlTx => false
  | .lvlRx => false

/-- The assembler's name of a request (30_encoding R82). -/
def Instr.mnemonic : Instr → String
  | .nop => "NOP"
  | .enqTxNw _ => "ENQ.TX.NW"
  | .enqTxWf _ => "ENQ.TX.WF"
  | .enqTxWt _ _ => "ENQ.TX.WT"
  | .deqRxNw => "DEQ.RX.NW"
  | .deqRxWf => "DEQ.RX.WF"
  | .deqRxWt _ => "DEQ.RX.WT"
  | .txsvc => "TXSVC"
  | .rxsvc _ => "RXSVC"
  | .armtx => "ARMTX"
  | .armrx => "ARMRX"
  | .ovfrd => "OVFRD"
  | .ovfclr => "OVFCLR"
  | .lvlTx => "LVL.TX"
  | .lvlRx => "LVL.RX"

/-- The status codes (30_encoding R76). -/
inductive Status where
  | ok
  | full
  | empty
  | illegal
  | dropped
  | idle
deriving DecidableEq, Repr

/-- The code of a status (30_encoding R76). -/
def Status.code : Status → BitVec 3
  | .ok => 0
  | .full => 1
  | .empty => 2
  | .illegal => 3
  | .dropped => 4
  | .idle => 5

/-- The response word: STATUS[2:0], 0 in [7:3], DATA[15:8], COUNT[31:16] (30_encoding R75). -/
def response (st : Status) (data : Byte) (count : Nat) : RspWord :=
  ((BitVec.ofNat 16 count).setWidth 32 <<< 16) ||| (data.setWidth 32 <<< 8) ||| st.code.setWidth 32

/-- RSP[2:0] (30_encoding R75). -/
def rspStatus (r : RspWord) : BitVec 3 := r.extractLsb' 0 3

/-- RSP[15:8] (30_encoding R75). -/
def rspData (r : RspWord) : Byte := r.extractLsb' 8 8

/-- The request word in bits 15..0 of an instruction numbered as spec/opcode_table.json numbers it. -/
def tableReqWord (nbits w : Nat) : ReqWord := BitVec.ofNat 16 (w % 2 ^ nbits)

/-- The TMO operand that follows the word, bits 47..16, zero where the instruction is given fewer bits (log entry 7). -/
def tableTmo (nbits w : Nat) : Tmo := BitVec.ofNat 32 (w % 2 ^ nbits / 2 ^ 16)

/-- The request port that may spell a word: H where H decodes it, else D (log entry 7: a word alone names no port). -/
def tablePort (w : ReqWord) (tmo : Tmo) : ReqPort :=
  match decode .host w tmo with
  | .ok _ => .host
  | .error _ => match decode .device w tmo with
    | .ok _ => .device
    | .error _ => .host

/-- The request the decoder reads from an instruction whose bits are w (log entry 7). -/
def decodeTableWord (nbits w : Nat) : Option Instr :=
  match decode (tablePort (tableReqWord nbits w) (tableTmo nbits w)) (tableReqWord nbits w) (tableTmo nbits w) with
  | .ok i => some i
  | .error _ => none

end Sys2Proof
end

