-- ==== Sys2Proof/Machine/State.lean ====
section
/-! DEFINITION. The state of the machine, as plain data: every piece of state of 10_state R20 to R36, the inputs and outputs of
R38, the parameters, and the model's own fields (INVENTORY.md lists them with their rules). -/

namespace Sys2Proof.Machine

/-- A queue's storage: (slot, byte) pairs, slots strictly rising. A slot that nothing has written since power-on is not listed
(20_memory R50, 10_state R22; log entry 2). -/
abbrev Memory := List Host.Cell

/-- One queue instance (10_state R22 to R26). Pointers and views are K+1 bits, in the low bits of 16 (log entry 11). -/
structure Queue where
  /-- C byte slots (R22). -/
  mem : Memory
  /-- The write pointer, in the producer's domain (R23). -/
  wptr : Ptr
  /-- The read pointer, in the consumer's domain (R24). -/
  rptr : Ptr
  /-- The consumer domain's gray-coded view of the write pointer (R25). -/
  wsync : Ptr
  /-- The producer domain's gray-coded view of the read pointer (R26). -/
  rsync : Ptr
deriving DecidableEq, Repr

/-- A point of the write sequence's loop body (44_host_sequences R205). -/
inductive WritePoint where
  /-- The next input byte is looked at, and autocrlf read. -/
  | start
  /-- ENQ 0x0D for an input 0x0A. -/
  | cr
  /-- The ARMTX after that 0x0D. -/
  | armCr
  /-- ENQ of the input byte itself. -/
  | byte
  /-- The ARMTX after the byte. -/
  | armByte
deriving DecidableEq, Repr

/-- A running host sequence with its locals (44_host_sequences R202 to R214). -/
inductive HostSeq where
  /-- init: ARMRX is to be issued (R202). -/
  | init
  /-- write or its variant: the input bytes not yet consumed and the count n (R205, R207). -/
  | write (pol : Policy) (rest : List Byte) (n : Nat) (pt : WritePoint)
  /-- read: max_len and the bytes read so far (R209). -/
  | read (pol : Policy) (maxLen : Nat) (buf : List Byte)
  /-- rx_overflow (R214). -/
  | rxOverflow
  /-- clear_rx_overflow (R214). -/
  | clearRxOverflow
deriving DecidableEq, Repr

/-- The caller-facing error kinds, in the order listed (44_host_sequences R201). -/
inductive ApiError where
  | noDevice
  | notConnected
  | ioError
deriving DecidableEq, Repr

/-- What a Driver API call returns (44_host_sequences R202 to R214). -/
inductive ApiResult where
  /-- Ok(()). -/
  | done
  /-- Ok(n), with the bytes placed in the caller's buffer (R209, R213); write places none. -/
  | count (n : Nat) (buf : List Byte)
  /-- Ok(b) of rx_overflow and clear_rx_overflow (R214). -/
  | flag (b : Bool)
  /-- Err(e). -/
  | err (e : ApiError)
deriving DecidableEq, Repr

/-- The host-side port record (10_state R36) and the host agent's place in its sequence (log entry 14). -/
structure HostRecord where
  initialized : Bool
  autocrlf : Bool
  seq : Option HostSeq
  /-- A transaction of the sequence is issued and its response not yet taken. -/
  awaiting : Bool
deriving DecidableEq, Repr

/-- One port instance (10_state R20), its outputs (R38) and its host-side record (R36). -/
structure Port where
  tx : Queue
  rx : Queue
  /-- The sticky RX-overflow flag, domain D (R30). -/
  ovf : Bool
  /-- Domain H's view of ovf (R31). -/
  ovfH : Bool
  /-- The transmit-ready interrupt enable, domain D (R32). -/
  txIe : Bool
  /-- The pending transmit-arm request, domain H (R33). -/
  armReq : Bool
  /-- The byte-received interrupt enable, domain D (R34). -/
  rxIe : Bool
  /-- The host port's outstanding request, with its TMO operand (R35). -/
  hreq : Option Instr
  /-- Output: the response on port H to the latest accepted request, none while there is none (R38; log entry 9). -/
  hRsp : Option RspWord
  /-- Output: the latest response on port D (R38; log entry 9). -/
  dRsp : Option RspWord
  /-- Output: the bytes emitted since reset, oldest first (R38, 41_device_service R133; log entry 9). -/
  txOut : List Byte
  /-- Output: the bytes RXSVC has read from the UART with a read acknowledge since reset, oldest first, dropped ones included
  (60_exceptions R250, 41_device_service R134, R135; log entry 9). -/
  rxRead : List Byte
  /-- The model-level fault mark (60_exceptions R242; log entry 8). -/
  illegalIssued : Bool
  /-- Host software's record of this port, outside the block (R36). -/
  host : HostRecord
deriving DecidableEq, Repr

/-- An API call's return: the port identifier it was called with, and its result. -/
structure ApiReturn where
  portId : Nat
  result : ApiResult
deriving DecidableEq, Repr

/-- The machine: NPORTS instances (00_scope R9) and what surrounds them. `port` is the instance at hand, `cur` its number, and
`others` the remaining instances in order (log entry 10). -/
structure State where
  /-- The OPEN parameters; no step writes them (log entry 1). -/
  params : Params
  port : Port
  cur : Nat
  others : List Port
  /-- The request port the request being executed arrived on (30_encoding R74). -/
  reqPort : ReqPort
  /-- The environment inputs of the present step (10_state R38). -/
  inputs : Inputs
  /-- The draws already fixed, oldest first (log entry 3). -/
  inbox : List Draw
  /-- The number of steps taken, the index of the free draws (log entry 3). -/
  tick : Nat
  /-- The number of power-on resets taken after the first (log entry 2). -/
  epoch : Nat
  /-- Output: what the latest API call to return has returned. -/
  apiResult : Option ApiReturn
deriving DecidableEq, Repr

/-- The reasons the machine faults: none. The block raises no exception and takes no trap, and every error is a response
status (60_exceptions R240), so no constructor exists. -/
inductive Fault where
deriving DecidableEq, Repr

/-- The reasons an instruction has no meaning here. -/
inductive Refusal where
  /-- Raised by an arm of exec that has no meaning yet; safe, since the machine stops. No arm of this model raises it. -/
  | notModelled (mnemonic : String)
deriving DecidableEq, Repr

/-- A queue after power-on: no slot written, pointers and views 0 (70_reset_and_hazards R270). -/
def Queue.reset : Queue := { mem := [], wptr := 0, rptr := 0, wsync := 0, rsync := 0 }

/-- The host-side record after reset (70_reset_and_hazards R272, R273). -/
def HostRecord.reset : HostRecord := { initialized := false, autocrlf := false, seq := none, awaiting := false }

/-- A port instance after power-on (70_reset_and_hazards R270). -/
def Port.reset : Port :=
  { tx := Queue.reset, rx := Queue.reset, ovf := false, ovfH := false, txIe := false, armReq := false, rxIe := false,
    hreq := none, hRsp := none, dRsp := none, txOut := [], rxRead := [], illegalIssued := false, host := HostRecord.reset }

/-- The machine after power-on, for any parameters: NPORTS instances at their reset values (70_reset_and_hazards R270). The
model takes the parameters as an argument here (00_scope R7 to R9). -/
def State.resetWith (p : Params) : State :=
  { params := p, port := Port.reset, cur := 0, others := List.replicate (p.portIds.length - 1) Port.reset,
    reqPort := .host, inputs := { txReady := false, rxHasData := false, rxByte := 0, tmoExpired := false },
    inbox := [], tick := 0, epoch := 0, apiResult := none }

/-- The parameters of the spec's worked examples, K = 2 and SYNC_STAGES = 0, with one port (log entry 1). -/
def workedParams : Params := { k := 2, sync := .bypassed, portIds := [1] }

/-- The machine right after reset (log entry 1 for the parameters). -/
def State.reset : State := State.resetWith workedParams

end Sys2Proof.Machine
end

