-- ==== Sys2Proof/Machine/Operands.lean ====
section
/-! DEFINITION. The operands of the transactions: storage slots, pointers modulo 2C, gray codes, and the queue's bytes
(00_scope R12, 10_state R22 to R27, 20_memory R50 to R52). -/

namespace Sys2Proof.Machine

/-- MemRead at the storage itself: the byte a slot holds, none where nothing has written it (20_memory R50; log entry 2). -/
def Memory.read (m : Memory) (a : Nat) : Option Byte :=
  match m with
  | [] => none
  | (b, v) :: rest => if a = b then some v else Memory.read rest a

/-- MemWrite: one byte into one slot, the list kept in rising order (20_memory R50). -/
def Memory.write (m : Memory) (a : Nat) (v : Byte) : Memory :=
  match m with
  | [] => [(a, v)]
  | (b, u) :: rest =>
    if a < b then (a, v) :: (b, u) :: rest
    else if a = b then (a, v) :: rest
    else (b, u) :: Memory.write rest a v

/-- The canonical form from a bound on: slots strictly rising and none below the bound. -/
def Memory.risingFrom (lo : Nat) (m : Memory) : Bool :=
  match m with
  | [] => true
  | (b, _) :: rest => decide (lo ≤ b) && Memory.risingFrom (b + 1) rest

/-- The canonical form: slots strictly rising. An unlisted slot reads as no written byte, so no listed byte can equal it
(log entry 2). -/
def Memory.wf (m : Memory) : Bool := Memory.risingFrom 0 m

/-- Every listed slot is one of the C slots (20_memory R50). -/
def Memory.within (cap : Nat) (m : Memory) : Bool := m.all fun cell => decide (cell.1 < cap)

/-- A pointer register's value: its K+1 bits, a number mod 2C (10_state R23, R24; log entry 11). -/
def ptrVal (p : Params) (v : Ptr) : Nat := v.toNat % p.span

/-- A number as a pointer register's K+1 bits (10_state R23). -/
def ptrOf (p : Params) (n : Nat) : Ptr := BitVec.ofNat 16 (n % p.span)

/-- ptr + 1 mod 2C (10_state R23, R24). -/
def ptrInc (p : Params) (v : Ptr) : Ptr := ptrOf p (ptrVal p v + 1)

/-- The slot index ptr mod C (20_memory R50). -/
def slotOf (p : Params) (v : Ptr) : Nat := ptrVal p v % p.cap

/-- (a - b) mod 2C, for b at most 2C (00_scope R12, 10_state R27). -/
def diff2C (p : Params) (a b : Nat) : Nat := (a + p.span - b) % p.span

/-- b2g(x) = x XOR (x >> 1) (00_scope R12). -/
def b2g (x : Ptr) : Ptr := x ^^^ (x >>> 1)

/-- g2b(g): bit i is the XOR of g[j] for all j ≥ i, which is the XOR of all right shifts of g (00_scope R12). -/
def g2b (g : Ptr) : Ptr := (List.range 16).foldl (fun acc j => acc ^^^ (g >>> j)) 0

/-- The gray code of a pointer register, b2g of its K+1 bits (10_state R25). -/
def grayOf (p : Params) (v : Ptr) : Ptr := b2g (ptrOf p (ptrVal p v))

/-- The pointer a view stands for, g2b of its K+1 bits (10_state R27). -/
def viewVal (p : Params) (g : Ptr) : Nat := (g2b (ptrOf p (ptrVal p g))).toNat

/-- pcount(q): the occupancy as q's producer sees it (10_state R27). -/
def Queue.pcount (p : Params) (q : Queue) : Nat := diff2C p (ptrVal p q.wptr) (viewVal p q.rsync)

/-- ccount(q): the occupancy as q's consumer sees it (10_state R27). -/
def Queue.ccount (p : Params) (q : Queue) : Nat := diff2C p (viewVal p q.wsync) (ptrVal p q.rptr)

/-- tcount(q): the true occupancy, which no domain computes (10_state R27). -/
def Queue.tcount (p : Params) (q : Queue) : Nat := diff2C p (ptrVal p q.wptr) (ptrVal p q.rptr)

/-- The number of port instances NPORTS (00_scope R9). -/
def State.nports (s : State) : Nat := s.others.length + 1

/-- All instances, in the order of their numbers. -/
def State.ports (s : State) : List Port := s.others.take s.cur ++ s.port :: s.others.drop s.cur

/-- MemRead(q, i) of the instance at hand: a slot that nothing has written since power-on holds an unknown byte, the free
value Config.slotReset (20_memory R50, 10_state R22; log entry 2). -/
def State.slot (s : State) (id : QId) (i : Nat) : Byte :=
  match Memory.read (match id with | .tx => s.port.tx.mem | .rx => s.port.rx.mem) i with
  | some v => v
  | none => Config.slotReset s.epoch s.cur id i

/-- The byte TXSVC dequeues, TX.mem[TX.rptr mod C] (41_device_service R130). -/
def State.txHead (s : State) : Byte := s.slot .tx (slotOf s.params s.port.tx.rptr)

/-- The byte DEQ dequeues, RX.mem[RX.rptr mod C] (40_queue_ops R106). -/
def State.rxHead (s : State) : Byte := s.slot .rx (slotOf s.params s.port.rx.rptr)

/-- zext_8 of one bit (42_irq_and_flag R155). -/
def bitByte (b : Bool) : Byte := if b then 1 else 0

end Sys2Proof.Machine
end

