-- ==== Sys2Proof/Machine/Flags.lean ====
section
/-! DEFINITION. The conditions and flag computations: full and empty as each side sees them, the arm/disarm mux, the overflow
flag, and the device port's enabling conditions (10_state R27 to R34, 41_device_service R138, 42_irq_and_flag R159). -/

namespace Sys2Proof.Machine

/-- full_p(q): pcount(q) = C (10_state R27). -/
def Queue.fullP (p : Params) (q : Queue) : Bool := q.pcount p == p.cap

/-- empty_c(q): ccount(q) = 0 (10_state R27). -/
def Queue.emptyC (p : Params) (q : Queue) : Bool := q.ccount p == 0

/-- ENQ's completion condition pcount(TX) < C (40_queue_ops R100). -/
def State.txHasRoom (s : State) : Bool := decide (s.port.tx.pcount s.params < s.params.cap)

/-- DEQ's completion condition ccount(RX) > 0 (40_queue_ops R106). -/
def State.rxHasByte (s : State) : Bool := decide (0 < s.port.rx.ccount s.params)

/-- TXSVC's test ccount(TX) == 0 (41_device_service R130). -/
def State.txEmpty (s : State) : Bool := s.port.tx.emptyC s.params

/-- RXSVC's test pcount(RX) == C (41_device_service R134). -/
def State.rxFull (s : State) : Bool := s.port.rx.fullP s.params

/-- The device port issues TXSVC only where tx_ie = 1 and tx_ready is true (41_device_service R138). -/
def State.txsvcEnabled (s : State) : Bool := s.port.txIe && s.inputs.txReady

/-- The device port issues RXSVC(b) only where rx_ie = 1 and rx_has_data is true, with b the received byte
(41_device_service R138). -/
def State.rxsvcEnabled (s : State) (b : Byte) : Bool := s.port.rxIe && s.inputs.rxHasData && s.inputs.rxByte == b

/-- The arm/disarm mux: tx_ie's next value, set-dominant (42_irq_and_flag R159). -/
def txIeNext (armDelivery disarm txIe : Bool) : Bool := armDelivery || (txIe && !disarm)

/-- The output tx_irq_en (10_state R38). -/
def Port.txIrqEn (p : Port) : Bool := p.txIe

/-- The output rx_irq_en (10_state R38). -/
def Port.rxIrqEn (p : Port) : Bool := p.rxIe

/-- Whether the completion condition of a request that may hold is true now (40_queue_ops R100, R106, R116). -/
def State.canComplete (s : State) : Instr → Bool
  | .enqTxNw _ => true
  | .enqTxWf _ => s.txHasRoom
  | .enqTxWt _ _ => s.txHasRoom
  | .deqRxNw => true
  | .deqRxWf => s.rxHasByte
  | .deqRxWt _ => s.rxHasByte
  | .nop => true
  | .txsvc => true
  | .rxsvc _ => true
  | .armtx => true
  | .armrx => true
  | .ovfrd => true
  | .ovfclr => true
  | .lvlTx => true
  | .lvlRx => true

/-- Whether every view of an instance equals its source, as SYNC_STAGES = 0 keeps it after every step
(43_sync_steps R181). -/
def Port.settled (p : Params) (o : Port) : Bool :=
  o.tx.wsync == grayOf p o.tx.wptr && o.tx.rsync == grayOf p o.tx.rptr &&
  o.rx.wsync == grayOf p o.rx.wptr && o.rx.rsync == grayOf p o.rx.rptr && o.ovfH == o.ovf

end Sys2Proof.Machine
end

