-- ==== Sys2Proof/Machine/Ops.lean ====
section
/-! DEFINITION. The named operations over an instance and over the machine: responding and holding, the queue's two pointer
moves, the synchronizer's copies, selecting an instance, and power-on reset. The block takes no exception (60_exceptions R240,
R245), so no exception entry stands here: its one answer to a broken request is `Port.answerIllegal` (30_encoding R77). -/

namespace Sys2Proof.Machine

/-- q.mem[q.wptr mod C] <- b; q.wptr <- (q.wptr + 1) mod 2C (40_queue_ops R100, 41_device_service R134). -/
def Queue.enqueue (p : Params) (b : Byte) (q : Queue) : Queue :=
  { q with mem := Memory.write q.mem (slotOf p q.wptr) b, wptr := ptrInc p q.wptr }

/-- q.rptr <- (q.rptr + 1) mod 2C (40_queue_ops R106, 41_device_service R130). -/
def Queue.dequeue (p : Params) (q : Queue) : Queue := { q with rptr := ptrInc p q.rptr }

/-- q.wsync <- b2g(q.wptr) (43_sync_steps R182, R184). -/
def Queue.publishW (p : Params) (q : Queue) : Queue := { q with wsync := grayOf p q.wptr }

/-- q.rsync <- b2g(q.rptr) (43_sync_steps R183, R185). -/
def Queue.publishR (p : Params) (q : Queue) : Queue := { q with rsync := grayOf p q.rptr }

/-- respond(status, data, count) on port H (30_encoding R75). -/
def Port.respondHost (st : Status) (data : Byte) (count : Nat) (o : Port) : Port :=
  { o with hRsp := some (response st data count) }

/-- respond(status, data, count) on port D (30_encoding R75). -/
def Port.respondDevice (st : Status) (data : Byte) (count : Nat) (o : Port) : Port :=
  { o with dRsp := some (response st data count) }

/-- respond(status, data, count) on the request port the request arrived on (30_encoding R75). -/
def Port.respondOn (r : ReqPort) (st : Status) (data : Byte) (count : Nat) (o : Port) : Port :=
  match r with
  | .host => o.respondHost st data count
  | .device => o.respondDevice st data count

/-- hold: the step only sets hreq <- request and responds nothing (40_queue_ops R116). -/
def Port.hold (i : Instr) (o : Port) : Port := { o with hreq := some i }

/-- An ILLEGAL request completes at once with respond(ILLEGAL, 0, 0) and writes no state (30_encoding R77); the model-level
mark is set (60_exceptions R242, log entry 8). -/
def Port.answerIllegal (r : ReqPort) (o : Port) : Port :=
  { (o.respondOn r .illegal 0 0) with illegalIssued := true }

/-- A successful enqueue into TX (40_queue_ops R100). -/
def Port.pushTx (p : Params) (b : Byte) (o : Port) : Port := { o with tx := o.tx.enqueue p b }

/-- A successful enqueue into RX (41_device_service R134). -/
def Port.pushRx (p : Params) (b : Byte) (o : Port) : Port := { o with rx := o.rx.enqueue p b }

/-- hw_read_byte: the received byte is taken from the UART with a read acknowledge, which clears its condition, whatever
follows (60_exceptions R250, 41_device_service R134, R135). -/
def Port.readByte (b : Byte) (o : Port) : Port := { o with rxRead := o.rxRead ++ [b] }

/-- A successful dequeue from TX, whose byte goes to the UART by emit_tx (41_device_service R130). -/
def Port.popTx (p : Params) (b : Byte) (o : Port) : Port := { o with tx := o.tx.dequeue p, txOut := o.txOut ++ [b] }

/-- A successful dequeue from RX (40_queue_ops R106). -/
def Port.popRx (p : Params) (o : Port) : Port := { o with rx := o.rx.dequeue p }

/-- The disarm: tx_ie <- 0 (41_device_service R130, 42_irq_and_flag R159). -/
def Port.disarm (o : Port) : Port := { o with txIe := txIeNext false true o.txIe }

/-- ARMTX's write: tx_ie directly in one clock domain, arm_req in two (42_irq_and_flag R150). -/
def Port.arm (p : Params) (o : Port) : Port :=
  if p.sync.isBypassed then { o with txIe := txIeNext true false o.txIe } else { o with armReq := true }

/-- ARMRX's write (42_irq_and_flag R153). -/
def Port.enableRx (o : Port) : Port := { o with rxIe := true }

/-- RXSVC's drop: ovf <- 1 (41_device_service R134). -/
def Port.setOvf (o : Port) : Port := { o with ovf := true }

/-- OVFCLR's handshake: ovf and ovf_h <- 0 (42_irq_and_flag R157). -/
def Port.clearOvf (o : Port) : Port := { o with ovf := false, ovfH := false }

/-- SYNC.TXW: TX.wsync <- b2g(TX.wptr), and a pending arm is delivered in the same step (43_sync_steps R182). -/
def Port.syncTxw (p : Params) (o : Port) : Port :=
  { o with tx := o.tx.publishW p, txIe := txIeNext o.armReq false o.txIe, armReq := false }

/-- SYNC.TXR (43_sync_steps R183). -/
def Port.syncTxr (p : Params) (o : Port) : Port := { o with tx := o.tx.publishR p }

/-- SYNC.RXW (43_sync_steps R184). -/
def Port.syncRxw (p : Params) (o : Port) : Port := { o with rx := o.rx.publishW p }

/-- SYNC.RXR (43_sync_steps R185). -/
def Port.syncRxr (p : Params) (o : Port) : Port := { o with rx := o.rx.publishR p }

/-- SYNC.OVF: ovf_h <- ovf (43_sync_steps R187). -/
def Port.syncOvf (o : Port) : Port := { o with ovfH := o.ovf }

/-- The eager sync of one clock domain: every view equals its source (43_sync_steps R181). -/
def Port.settle (p : Params) (o : Port) : Port :=
  { o with tx := (o.tx.publishW p).publishR p, rx := (o.rx.publishW p).publishR p, ovfH := o.ovf }

/-- Power-on reset of one instance (70_reset_and_hazards R270, R272, R273). The model-level mark is kept,
since no step clears it (60_exceptions R242; log entry 8). -/
def Port.powerOn (o : Port) : Port := { Port.reset with illegalIssued := o.illegalIssued }

/-- The turns of the weakly fair events over the free draws: the turn that is next, and how many draws come before it. A turn's
wait is the free value Config.fairWait, so it is finite and nothing else is known of it (43_sync_steps R189; log entry 16). -/
def fairTurn : Nat → Nat × Nat
  | 0 => (0, Config.fairWait 0)
  | n + 1 =>
    match fairTurn n with
    | (j, 0) => (j + 1, Config.fairWait (j + 1))
    | (j, w + 1) => (j, w)

/-- The event of a turn: of each of n instances in turn, the five synchronizer steps and the complete step (43_sync_steps R189). -/
def fairEvent (n turn : Nat) : Event :=
  match turn % 6 with
  | 0 => .sync (turn / 6 % n) .txw
  | 1 => .sync (turn / 6 % n) .txr
  | 2 => .sync (turn / 6 % n) .rxw
  | 3 => .sync (turn / 6 % n) .rxr
  | 4 => .sync (turn / 6 % n) .ovf
  | _ => .complete (turn / 6 % n)

/-- A change of the instance at hand. -/
def State.modPort (f : Port → Port) (s : State) : State := { s with port := f s.port }

/-- A change of the host-side record of the instance at hand. -/
def State.modHost (f : HostRecord → HostRecord) (s : State) : State :=
  { s with port := { s.port with host := f s.port.host } }

/-- Take instance i at hand; a number that is no instance's changes nothing (log entry 10). -/
def State.select (i : Nat) (s : State) : State :=
  match s.ports[i]? with
  | some o => { s with port := o, cur := i, others := s.ports.eraseIdx i }
  | none => s

/-- The eager sync as part of a step, in the configuration of one clock domain only (43_sync_steps R181, log entry 12). -/
def State.settle (s : State) : State :=
  if s.params.sync.isBypassed then s.modPort (Port.settle s.params) else s

/-- Power-on reset: every instance, both domains together; a held request and the running host sequences are abandoned
(70_reset_and_hazards R270, R272; log entry 13). -/
def State.powerOn (s : State) : State :=
  { s with port := s.port.powerOn, others := s.others.map Port.powerOn, epoch := s.epoch + 1, apiResult := none }

/-- The draw of a step for which none was placed: free, but that the event which is due is taken (43_sync_steps R189; log
entries 3 and 16). -/
def State.freeDraw (s : State) : Draw :=
  if (fairTurn s.tick).2 = 0 then { Config.envDraw s.tick with event := fairEvent s.nports (fairTurn s.tick).1 }
  else Config.envDraw s.tick

/-- The draw of the present step: the oldest one placed, or else a free draw (log entry 3). -/
def State.draw (s : State) : Draw :=
  match s.inbox with
  | d :: _ => d
  | [] => s.freeDraw

/-- The machine with that draw taken and its inputs sampled (10_state R38). -/
def State.taken (s : State) : State :=
  { s with inputs := s.draw.inputs, inbox := s.inbox.tail, tick := s.tick + 1 }

end Sys2Proof.Machine
end

