-- ==== Sys2Proof/Machine/DeviceService.lean ====
section
/-! DEFINITION. The device-port service transactions TXSVC and RXSVC, the block's form of the interrupt service routine
(41_device_service). Where the device port may not issue one, it has no step: the machine is unchanged (R138, log entry 5). -/

namespace Sys2Proof.Machine

/-- The machine after a TXSVC that found a byte: emitted, and answered with (41_device_service R130). -/
def State.txsvcSend (s : State) : State :=
  s.modPort fun o => (o.popTx s.params s.txHead).respondDevice .ok s.txHead 0

/-- The machine after a TXSVC that found TX empty: disarmed, IDLE (41_device_service R130). -/
def State.txsvcIdle (s : State) : State :=
  s.modPort fun o => o.disarm.respondDevice .idle 0 0

/-- The machine after an RXSVC that found room (41_device_service R134). -/
def State.rxsvcStore (b : Byte) (s : State) : State :=
  s.modPort fun o => ((o.readByte b).pushRx s.params b).respondDevice .ok 0 0

/-- The machine after an RXSVC that found RX full: the byte was read all the same, it is dropped and ovf set
(41_device_service R134, R135). -/
def State.rxsvcDrop (b : Byte) (s : State) : State :=
  s.modPort fun o => (o.readByte b).setOvf.respondDevice .dropped 0 0

/-- TXSVC (41_device_service R130, R138). -/
def execTxsvc (s : State) : Host.Outcome State Fault Refusal :=
  if s.txsvcEnabled then
    if s.txEmpty then .next s.txsvcIdle else .next s.txsvcSend
  else .next s

/-- RXSVC b (41_device_service R134, R138). -/
def execRxsvc (b : Byte) (s : State) : Host.Outcome State Fault Refusal :=
  if s.rxsvcEnabled b then
    if s.rxFull then .next (s.rxsvcDrop b) else .next (s.rxsvcStore b)
  else .next s

end Sys2Proof.Machine
end

