-- ==== Sys2Proof/Machine/IrqFlag.lean ====
section
/-! DEFINITION. The interrupt arm transactions and the overflow-flag transactions (42_irq_and_flag). -/

namespace Sys2Proof.Machine

/-- ARMTX (42_irq_and_flag R150). -/
def execArmtx (s : State) : Host.Outcome State Fault Refusal :=
  .next (s.modPort fun o => (o.arm s.params).respondHost .ok 0 0)

/-- ARMRX (42_irq_and_flag R153). -/
def execArmrx (s : State) : Host.Outcome State Fault Refusal :=
  .next (s.modPort fun o => o.enableRx.respondHost .ok 0 0)

/-- OVFRD answers with the host's view ovf_h (42_irq_and_flag R155). -/
def execOvfrd (s : State) : Host.Outcome State Fault Refusal :=
  .next (s.modPort fun o => o.respondHost .ok (bitByte o.ovfH) 0)

/-- OVFCLR answers with ovf itself as it was just before the clear (42_irq_and_flag R157). -/
def execOvfclr (s : State) : Host.Outcome State Fault Refusal :=
  .next (s.modPort fun o => o.clearOvf.respondHost .ok (bitByte o.ovf) 0)

end Sys2Proof.Machine
end

