-- ==== Sys2Proof/Machine/QueueOps.lean ====
section
/-! DEFINITION. The host queue transactions ENQ, DEQ, LVL and NOP (40_queue_ops). -/

namespace Sys2Proof.Machine

/-- The machine after an ENQ of b that found room (40_queue_ops R100). -/
def State.enqDone (b : Byte) (s : State) : State :=
  s.modPort fun o => (o.pushTx s.params b).respondHost .ok 0 0

/-- The machine after a DEQ that found a byte (40_queue_ops R106). -/
def State.deqDone (s : State) : State :=
  s.modPort fun o => (o.popRx s.params).respondHost .ok s.rxHead 0

/-- ENQ's pseudocode for a policy, `held` being the request as decoded (40_queue_ops R100). A WaitUpTo of 0 is NoWait
(30_encoding R72). -/
def enqWith (held : Instr) (pol : Policy) (b : Byte) (s : State) : Host.Outcome State Fault Refusal :=
  if s.txHasRoom then .next (s.enqDone b)
  else match pol with
    | .noWait => .next (s.modPort (Port.respondHost .full 0 0))
    | .forever => .next (s.modPort (Port.hold held))
    | .upTo n =>
      if n = 0 then .next (s.modPort (Port.respondHost .full 0 0)) else .next (s.modPort (Port.hold held))

/-- DEQ's pseudocode for a policy, `held` being the request as decoded (40_queue_ops R106). -/
def deqWith (held : Instr) (pol : Policy) (s : State) : Host.Outcome State Fault Refusal :=
  if s.rxHasByte then .next s.deqDone
  else match pol with
    | .noWait => .next (s.modPort (Port.respondHost .empty 0 0))
    | .forever => .next (s.modPort (Port.hold held))
    | .upTo n =>
      if n = 0 then .next (s.modPort (Port.respondHost .empty 0 0)) else .next (s.modPort (Port.hold held))

/-- NOP answers on the port it came in on (40_queue_ops R115). -/
def execNop (s : State) : Host.Outcome State Fault Refusal :=
  .next (s.modPort (Port.respondOn s.reqPort .ok 0 0))

/-- ENQ.TX.NW b (40_queue_ops R100). -/
def execEnqTxNw (b : Byte) (s : State) : Host.Outcome State Fault Refusal :=
  enqWith (.enqTxNw b) .noWait b s

/-- ENQ.TX.WF b (40_queue_ops R100). -/
def execEnqTxWf (b : Byte) (s : State) : Host.Outcome State Fault Refusal :=
  enqWith (.enqTxWf b) .forever b s

/-- ENQ.TX.WT b, #tmo (40_queue_ops R100). -/
def execEnqTxWt (b : Byte) (tmo : Tmo) (s : State) : Host.Outcome State Fault Refusal :=
  enqWith (.enqTxWt b tmo) (.upTo tmo) b s

/-- DEQ.RX.NW (40_queue_ops R106). -/
def execDeqRxNw (s : State) : Host.Outcome State Fault Refusal :=
  deqWith .deqRxNw .noWait s

/-- DEQ.RX.WF (40_queue_ops R106). -/
def execDeqRxWf (s : State) : Host.Outcome State Fault Refusal :=
  deqWith .deqRxWf .forever s

/-- DEQ.RX.WT #tmo (40_queue_ops R106). -/
def execDeqRxWt (tmo : Tmo) (s : State) : Host.Outcome State Fault Refusal :=
  deqWith (.deqRxWt tmo) (.upTo tmo) s

/-- LVL.TX answers with the producer's own view pcount(TX) (40_queue_ops R112). -/
def execLvlTx (s : State) : Host.Outcome State Fault Refusal :=
  .next (s.modPort (Port.respondHost .ok 0 (s.port.tx.pcount s.params)))

/-- LVL.RX answers with the consumer's own view ccount(RX) (40_queue_ops R112). -/
def execLvlRx (s : State) : Host.Outcome State Fault Refusal :=
  .next (s.modPort (Port.respondHost .ok 0 (s.port.rx.ccount s.params)))

end Sys2Proof.Machine
end

