-- ==== Sys2Proof/Machine/Dispatch.lean ====
section
/-! DEFINITION. One arm per request: the meaning of each (30_encoding R73). -/

namespace Sys2Proof.Machine

def exec (i : Instr) (s : State) : Host.Outcome State Fault Refusal :=
  match i with
  | .nop => Sys2Proof.Machine.execNop s
  | .enqTxNw b => Sys2Proof.Machine.execEnqTxNw b s
  | .enqTxWf b => Sys2Proof.Machine.execEnqTxWf b s
  | .enqTxWt b tmo => Sys2Proof.Machine.execEnqTxWt b tmo s
  | .deqRxNw => Sys2Proof.Machine.execDeqRxNw s
  | .deqRxWf => Sys2Proof.Machine.execDeqRxWf s
  | .deqRxWt tmo => Sys2Proof.Machine.execDeqRxWt tmo s
  | .txsvc => Sys2Proof.Machine.execTxsvc s
  | .rxsvc b => Sys2Proof.Machine.execRxsvc b s
  | .armtx => Sys2Proof.Machine.execArmtx s
  | .armrx => Sys2Proof.Machine.execArmrx s
  | .ovfrd => Sys2Proof.Machine.execOvfrd s
  | .ovfclr => Sys2Proof.Machine.execOvfclr s
  | .lvlTx => Sys2Proof.Machine.execLvlTx s
  | .lvlRx => Sys2Proof.Machine.execLvlRx s

end Sys2Proof.Machine
end

