-- ==== Sys2Proof/Machine/SyncSteps.lean ====
section
/-! DEFINITION. The steps that have no request word: the synchronizer's five crossings and the timeout (43_sync_steps). -/

namespace Sys2Proof.Machine

/-- A crossing's copy in the configuration of two clock domains (43_sync_steps R182 to R187). -/
def Port.cross (p : Params) (c : Crossing) (o : Port) : Port :=
  match c with
  | .txw => o.syncTxw p
  | .txr => o.syncTxr p
  | .rxw => o.syncRxw p
  | .rxr => o.syncRxr p
  | .ovf => o.syncOvf

/-- A synchronizer step: enabled always with SYNC_STAGES ≥ 2, a no-op with SYNC_STAGES = 0 (43_sync_steps R181 to R187). -/
def State.syncStep (c : Crossing) (s : State) : State :=
  if s.params.sync.isBypassed then s else s.modPort (Port.cross s.params c)

/-- The answer the TMO step gives to a held WaitUpTo request: FULL to ENQ, EMPTY to DEQ; none for every other request, which
has no timeout (43_sync_steps R190). -/
def timeoutStatus : Instr → Option Status
  | .enqTxWt _ _ => some .full
  | .deqRxWt _ => some .empty
  | .nop => none
  | .enqTxNw _ => none
  | .enqTxWf _ => none
  | .deqRxNw => none
  | .deqRxWf => none
  | .txsvc => none
  | .rxsvc _ => none
  | .armtx => none
  | .armrx => none
  | .ovfrd => none
  | .ovfclr => none
  | .lvlTx => none
  | .lvlRx => none

/-- hreq <- none with the timeout's answer (43_sync_steps R190). -/
def Port.endHeld (st : Status) (o : Port) : Port := { (o.respondHost st 0 0) with hreq := none }

/-- Whether the TMO step is enabled on a held request whose timeout has run: its completion condition is false now
(43_sync_steps R190, 30_encoding R76, 93 I2; log entry 6). -/
def State.timeoutAllowed (i : Instr) (s : State) : Bool := !s.canComplete i

/-- The TMO step (43_sync_steps R190); no step where it is not enabled (log entry 5). -/
def State.timeoutStep (s : State) : State :=
  match s.port.hreq with
  | none => s
  | some i =>
    match timeoutStatus i with
    | none => s
    | some st => if s.inputs.tmoExpired && s.timeoutAllowed i then s.modPort (Port.endHeld st) else s

end Sys2Proof.Machine
end

