-- ==== Sys2Proof/Machine/Agents.lean ====
section
/-! DEFINITION. The request ports: how a request word is accepted, decoded and tried on each port, and how a held request
completes (40_queue_ops R116, 41_device_service R137, R138). -/

namespace Sys2Proof.Machine

/-- A request word is decoded for its port and tried once; ILLEGAL is answered at once (30_encoding R74, R77). -/
def tryWord (r : ReqPort) (w : ReqWord) (tmo : Tmo) (s : State) : Host.Outcome State Fault Refusal :=
  match decode r w tmo with
  | .ok i => exec i s
  | .error _ => .next (s.modPort (Port.answerIllegal r))

/-- A request is accepted on port r: it is the one being executed, and port H has no response to it yet (log entry 9). -/
def State.accept (r : ReqPort) (s : State) : State :=
  match r with
  | .host => { s with reqPort := .host, port := { s.port with hRsp := none } }
  | .device => { s with reqPort := .device }

/-- The issue step of port H: while a request is held, no other is accepted (40_queue_ops R116). -/
def issueHost (w : ReqWord) (tmo : Tmo) (s : State) : Host.Outcome State Fault Refusal :=
  if s.port.hreq.isSome then .next s else tryWord .host w tmo (s.accept .host)

/-- The issue step of port D. A request of port D has no TMO operand (41_device_service). -/
def issueDevice (w : ReqWord) (s : State) : Host.Outcome State Fault Refusal :=
  tryWord .device w 0 (s.accept .device)

/-- The complete step: the held request's condition is evaluated again; if it holds, the effect, the response and hreq <- none;
if not, the request stays held (40_queue_ops R116). -/
def completeHeld (s : State) : Host.Outcome State Fault Refusal :=
  match s.port.hreq with
  | none => .next s
  | some i => exec i { s with port := { s.port with hreq := none } }

end Sys2Proof.Machine
end

