-- ==== Sys2Proof/Machine/HostSeq.lean ====
section
/-! DEFINITION. The Driver API as host sequences over the block's transactions (44_host_sequences), run by the instance's one
host agent (93 I10, log entry 14), and the assembler's pseudo-instructions (30_encoding R83). -/

namespace Sys2Proof.Machine

/-- PUT b (30_encoding R83). -/
def pseudoPut (b : Byte) : List Instr := [.enqTxWf b, .armtx]

/-- PUTLN (30_encoding R83). -/
def pseudoPutln : List Instr := pseudoPut 0x0D ++ pseudoPut 0x0A

/-- GET.NW, GET.WF and GET.WT #n (30_encoding R83). -/
def pseudoGet (pol : Policy) : List Instr := [pol.deq]

/-- lookup(port_id): the number of the instance a compiled-in identifier names (44_host_sequences R200). -/
def lookupPort (p : Params) (portId : Nat) : Option Nat := p.portIds.findIdx? (· == portId)

/-- The wait policy of a timeout argument: 0 is NoWait, TIMEOUT_FOREVER is WaitForever, any other N is WaitUpTo(N)
(44_host_sequences R212). -/
def timeoutPolicy : Timeout → Policy
  | .policy pol => pol
  | .units n => if n = 0 then .noWait else if n = Config.timeoutForever then .forever else .upTo n

/-- write_fail(n) for a WRITE_FAIL_MODE (44_host_sequences R207). -/
def writeFail (mode : WriteFailMode) (n : Nat) : ApiResult :=
  match mode with
  | .errAlways => .err .ioError
  | .partialCount => if 0 < n then .count n [] else .err .ioError

/-- What a sequence does next: issue a transaction and wait, go to another of its points, or return. -/
inductive HostMove where
  | issue (i : Instr)
  | goto (q : HostSeq)
  | ret (r : ApiResult)
deriving DecidableEq, Repr

/-- The move of a sequence that waits for no response (44_host_sequences R202, R205, R209, R214). -/
def HostSeq.move (autocrlf : Bool) : HostSeq → HostMove
  | .init => .issue .armrx
  | .write _ [] n _ => .ret (.count n [])
  | .write pol (b :: rest) n .start =>
      .goto (.write pol (b :: rest) n (if autocrlf && b == 0x0A then .cr else .byte))
  | .write pol (_ :: _) _ .cr => .issue (pol.enq 0x0D)
  | .write _ (_ :: _) _ .armCr => .issue .armtx
  | .write pol (b :: _) _ .byte => .issue (pol.enq b)
  | .write _ (_ :: _) _ .armByte => .issue .armtx
  | .read pol maxLen buf => if buf.length < maxLen then .issue pol.deq else .ret (.count buf.length buf)
  | .rxOverflow => .issue .ovfrd
  | .clearRxOverflow => .issue .ovfclr

/-- The move of a sequence on the response it waited for (44_host_sequences R202, R205, R207, R209, R214). -/
def HostSeq.onResponse (mode : WriteFailMode) (r : RspWord) : HostSeq → HostMove
  | .init => .ret .done
  | .write pol rest n .start => .goto (.write pol rest n .start)
  | .write pol rest n .cr =>
      if rspStatus r = Status.ok.code then .goto (.write pol rest n .armCr) else .ret (writeFail mode n)
  | .write pol rest n .armCr => .goto (.write pol rest n .byte)
  | .write pol rest n .byte =>
      if rspStatus r = Status.ok.code then .goto (.write pol rest n .armByte) else .ret (writeFail mode n)
  | .write pol rest n .armByte => .goto (.write pol rest.tail (n + 1) .start)
  | .read pol maxLen buf =>
      if rspStatus r = Status.empty.code then .ret (.count buf.length buf)
      else .goto (.read pol maxLen (buf ++ [rspData r]))
  | .rxOverflow => .ret (.flag ((rspData r).getLsbD 0))
  | .clearRxOverflow => .ret (.flag ((rspData r).getLsbD 0))

/-- Whether the return of a sequence marks the port initialized: init's does, once its ARMRX is answered (44_host_sequences
R202). -/
def HostSeq.marksInitialized : HostSeq → Bool
  | .init => true
  | .write _ _ _ _ => false
  | .read _ _ _ => false
  | .rxOverflow => false
  | .clearRxOverflow => false

/-- A call to the instance at hand returns r: the sequence is over (44_host_sequences). -/
def State.apiReturn (r : ApiResult) (s : State) : State :=
  { (s.modHost fun h => { h with seq := none, awaiting := false }) with
    apiResult := some { portId := s.params.portIds.getD s.cur 0, result := r } }

/-- The sequence goes to one of its points and waits for nothing. -/
def State.seqGoto (q : HostSeq) (s : State) : State :=
  s.modHost fun h => { h with seq := some q, awaiting := false }

/-- The sequence takes the response it waited for (44_host_sequences, "H: X ... waits for its response"). -/
def State.takeResponse (q : HostSeq) (r : RspWord) (s : State) : State :=
  match q.onResponse Config.writeFailMode r with
  | .issue _ => s.seqGoto q
  | .goto q' => s.seqGoto q'
  | .ret res =>
    (s.modHost fun h => { h with initialized := h.initialized || q.marksInitialized }).apiReturn res

/-- One move of the running host sequence: take a response, issue the next transaction on port H, or go on. While its request
is held, the sequence waits (40_queue_ops R116). -/
def driverStep (s : State) : Host.Outcome State Fault Refusal :=
  match s.port.host.seq with
  | none => .next s
  | some q =>
    if s.port.hreq.isSome then .next s
    else if s.port.host.awaiting then
      match s.port.hRsp with
      | none => .next s
      | some r => .next (s.takeResponse q r)
    else
      match q.move s.port.host.autocrlf with
      | .issue i => issueHost i.encode.1 i.encode.2 (s.modHost fun h => { h with awaiting := true })
      | .goto q' => .next (s.seqGoto q')
      | .ret res => .next (s.apiReturn res)

/-- The I/O guard's second half: NotConnected before init, with no transaction and no state change (44_host_sequences R204). -/
def State.guarded (q : HostSeq) (s : State) : State :=
  if s.port.host.initialized then s.seqGoto q else s.apiReturn (.err .notConnected)

/-- A call to a port that lookup found (44_host_sequences R202 to R214). init's `configure` is the external collaborator
(00_scope R6). -/
def State.startCall (c : ApiCall) (s : State) : State :=
  match c with
  | .init _ => s.seqGoto .init
  | .setAutocrlf enabled => (s.modHost fun h => { h with autocrlf := enabled }).apiReturn .done
  | .write bytes => s.guarded (.write .forever bytes 0 .start)
  | .writeWith pol bytes => s.guarded (.write pol bytes 0 .start)
  | .putchar b => s.guarded (.write .forever [b] 0 .start)
  | .read maxLen timeout => s.guarded (.read (timeoutPolicy timeout) maxLen [])
  | .getchar timeout => s.guarded (.read (timeoutPolicy timeout) 1 [])
  | .rxOverflow => s.seqGoto .rxOverflow
  | .clearRxOverflow => s.seqGoto .clearRxOverflow

/-- Whether the host agent of the instance at hand is free: no sequence runs and no request is held (93 I10, log entry 14). -/
def State.hostFree (s : State) : Bool := s.port.host.seq.isNone && s.port.hreq.isNone

/-- A Driver API call: NoDevice where lookup finds no instance (44_host_sequences R200, R204). -/
def State.apiCall (portId : Nat) (c : ApiCall) (s : State) : State :=
  match lookupPort s.params portId with
  | none => { s with apiResult := some { portId := portId, result := .err .noDevice } }
  | some i =>
    if i < s.nports then
      if (s.select i).hostFree then (s.select i).startCall c else s.select i
    else { s with apiResult := some { portId := portId, result := .err .noDevice } }

/-- An event at instance i, taken there; a number that is no instance's has no port to act on (log entry 10). -/
def onInstance (i : Nat) (f : State → Host.Outcome State Fault Refusal) (s : State) : Host.Outcome State Fault Refusal :=
  if i < s.nports then f (s.select i) else .next s

/-- A request word the host agent presents by itself, where no sequence of its own is running (log entry 14). -/
def hostWord (w : ReqWord) (tmo : Tmo) (s : State) : Host.Outcome State Fault Refusal :=
  if s.port.host.seq.isSome then .next s else issueHost w tmo s

/-- One event of the total order (20_memory R60, 30_encoding R81). -/
def runEvent (e : Event) (s : State) : Host.Outcome State Fault Refusal :=
  match e with
  | .host i w tmo => onInstance i (hostWord w tmo) s
  | .device i w => onInstance i (issueDevice w) s
  | .complete i => onInstance i completeHeld s
  | .sync i c => onInstance i (fun t => .next (t.syncStep c)) s
  | .timeout i => onInstance i (fun t => .next t.timeoutStep) s
  | .call portId c => .next (s.apiCall portId c)
  | .driver i => onInstance i driverStep s
  | .reset => .next s.powerOn

/-- The eager sync at the end of a step (43_sync_steps R181, log entry 12). -/
def settleOutcome (o : Host.Outcome State Fault Refusal) : Host.Outcome State Fault Refusal :=
  match o with
  | .next s => .next s.settle
  | .fault r => .fault r
  | .refused r => .refused r

/-- The instance at hand made ready so that a request is issued on its very next step: port H free, or the device port's
enabling bit for the service set (40_queue_ops R116, 41_device_service R138; log entry 4). -/
def Port.readyFor (r : ReqPort) (i : Option Instr) (o : Port) : Port :=
  match r with
  | .host => { o with hreq := none, host := { o.host with seq := none } }
  | .device =>
    match i with
    | some .txsvc => { o with txIe := true }
    | some (.rxsvc _) => { o with rxIe := true }
    | _ => o

/-- The draw that presents a table word on the port that may spell it, every input condition present (log entry 4). -/
def tableDraw (inst nbits w : Nat) : Draw :=
  { inputs := { txReady := true, rxHasData := true, rxByte := reqData (tableReqWord nbits w), tmoExpired := true },
    event := match tablePort (tableReqWord nbits w) (tableTmo nbits w) with
      | .host => .host inst (tableReqWord nbits w) (tableTmo nbits w)
      | .device => .device inst (tableReqWord nbits w) }

/-- The machine with a table word placed as its next draw (log entry 4). -/
def State.placeWord (nbits w : Nat) (s : State) : State :=
  { s with
    port := s.port.readyFor (tablePort (tableReqWord nbits w) (tableTmo nbits w)) (decodeTableWord nbits w),
    inbox := tableDraw s.cur nbits w :: s.inbox }

end Sys2Proof.Machine
end

