-- ==== Sys2Proof/Machine/Step.lean ====
section
/-! DEFINITION. One step of the machine, and where its next request is placed. -/

namespace Sys2Proof.Machine

/-- One step: a draw is taken, its event happens, and with SYNC_STAGES = 0 every view follows its source in the same step
(20_memory R60, 43_sync_steps R181). -/
def step (s : State) : Host.Outcome State Fault Refusal :=
  settleOutcome (runEvent s.draw.event s.taken)

/-- The machine with an instruction placed where the next step takes it (log entry 4). -/
def State.withFetchWord (s : State) (nbits w : Nat) : State := s.placeWord nbits w

end Sys2Proof.Machine
end

