-- ==== Sys2Proof/Safety.lean ====
section
/-! DEFINITION. What counts as a good state and a fair run, in the terms the statements use (10_state R28, 20_memory R54 to R56,
43_sync_steps R181, R189, R191, 70_reset_and_hazards R280 to R282). -/

namespace Sys2Proof.Machine

/-- 0 ≤ ccount(q) ≤ tcount(q) ≤ pcount(q) ≤ C (10_state R28). -/
def Queue.Ordered (p : Params) (q : Queue) : Prop :=
  q.ccount p ≤ q.tcount p ∧ q.tcount p ≤ q.pcount p ∧ q.pcount p ≤ p.cap

/-- The queue's registers hold nothing above their K+1 bits (10_state R23 to R26). -/
def Queue.InWidth (p : Params) (q : Queue) : Prop :=
  q.wptr.toNat < p.span ∧ q.rptr.toNat < p.span ∧ q.wsync.toNat < p.span ∧ q.rsync.toNat < p.span

/-- The storage is in its canonical form and lists no slot but the C slots (20_memory R50). -/
def Queue.StorageOk (p : Params) (q : Queue) : Prop :=
  Memory.wf q.mem = true ∧ Memory.within p.cap q.mem = true

/-- The slot of the j-th live byte, (q.rptr + j) mod C (20_memory R55). -/
def Queue.liveSlot (p : Params) (q : Queue) (j : Nat) : Nat := (ptrVal p q.rptr + j) % p.cap

/-- The live bytes, oldest first: what the queue holds as a first-in, first-out queue (20_memory R55, R56). -/
def Queue.contents (p : Params) (q : Queue) : List (Option Byte) :=
  (List.range (q.tcount p)).map fun j => Memory.read q.mem (q.liveSlot p j)

/-- Every live slot has been written since power-on (20_memory R54). -/
def Queue.LiveWritten (p : Params) (q : Queue) : Prop :=
  ∀ j, j < q.tcount p → (Memory.read q.mem (q.liveSlot p j)).isSome = true

/-- hreq holds nothing, or a well-formed request that may hold (10_state R35, 40_queue_ops R117). -/
def Port.HeldMayHold (o : Port) : Prop :=
  ∀ i, o.hreq = some i → i.mayHold = true ∧ i.wf = true

/-- A good instance: counts in order, registers in width, storage canonical, live slots written, hreq legal; and with one clock
domain every view settled and no arm request pending (10_state R28, R33, 20_memory R54, 43_sync_steps R181). -/
def Port.Good (p : Params) (o : Port) : Prop :=
  (o.tx.Ordered p ∧ o.rx.Ordered p) ∧ (o.tx.InWidth p ∧ o.rx.InWidth p) ∧ (o.tx.StorageOk p ∧ o.rx.StorageOk p) ∧
  (o.tx.LiveWritten p ∧ o.rx.LiveWritten p) ∧ o.HeldMayHold ∧
  (p.sync.isBypassed = true → o.settled p = true ∧ o.armReq = false)

/-- Every instance of the machine has the property. -/
def State.AllPorts (P : Port → Prop) (s : State) : Prop := ∀ o, o ∈ s.ports → P o

/-- The instance at hand is one of the NPORTS instances (log entry 10). -/
def State.CurOk (s : State) : Prop := s.cur < s.nports

/-- The host keeps its port of R282: a byte in TX that the device has not dequeued will be serviced, because the interrupt is
armed or an arm is pending; and while D's view of TX.wptr is old, an arm is pending (70_reset_and_hazards R282). -/
def Port.ArmCovered (p : Params) (o : Port) : Prop :=
  (0 < o.tx.tcount p → o.txIe = true ∨ o.armReq = true) ∧
  (o.tx.ccount p ≠ o.tx.tcount p → o.armReq = true)

/-- A list of requests executed one after another, stopping at the first that answers no next state. -/
def execAll : List Instr → State → Host.Outcome State Fault Refusal
  | [], s => .next s
  | i :: is, s =>
    match exec i s with
    | .next t => execAll is t
    | .fault r => .fault r
    | .refused r => .refused r

/-- i is an ENQ of byte b, of any policy (40_queue_ops R100). -/
def IsEnq (i : Instr) (b : Byte) : Prop := i = .enqTxNw b ∨ i = .enqTxWf b ∨ ∃ n, i = .enqTxWt b n

/-- i is a DEQ, of any policy (40_queue_ops R106). -/
def IsDeq (i : Instr) : Prop := i = .deqRxNw ∨ i = .deqRxWf ∨ ∃ n, i = .deqRxWt n

/-- The transactions a host sequence issues when they are answered with the given responses, and what it returns; none while it
waits for a response that is not given (44_host_sequences). The first number bounds its moves. -/
def HostSeq.play (mode : WriteFailMode) (autocrlf : Bool) : Nat → List RspWord → HostSeq → List Instr × Option ApiResult
  | 0, _, _ => ([], none)
  | n + 1, rs, q =>
    match q.move autocrlf with
    | .ret r => ([], some r)
    | .goto q' => HostSeq.play mode autocrlf n rs q'
    | .issue i =>
      match rs with
      | [] => ([i], none)
      | r :: rest =>
        match q.onResponse mode r with
        | .ret x => ([i], some x)
        | .goto q' => (i :: (HostSeq.play mode autocrlf n rest q').1, (HostSeq.play mode autocrlf n rest q').2)
        | .issue _ => ([i], none)

/-- T(b), spelled as transactions: the 0x0D of an autocrlf newline, then the byte, each followed by an ARMTX
(44_host_sequences R205, R216). -/
def putSequence (pol : Policy) (autocrlf : Bool) (b : Byte) : List Instr :=
  (if autocrlf && b == 0x0A then [pol.enq 0x0D, .armtx] else []) ++ [pol.enq b, .armtx]

/-- A host that keeps to the interface: no ILLEGAL was ever answered (60_exceptions R242). -/
def State.InterfaceKept (s : State) : Prop := s.AllPorts fun o => o.illegalIssued = false

/-! ## Infinite runs (43_sync_steps R189, R191) -/

/-- The states of a run, by step number. -/
abbrev Run := Nat → State

/-- An infinite run: each state is the next state of the one before it, so its draws are the states' own (`(r n).draw`). -/
def IsRun (r : Run) : Prop := ∀ n, step (r n) = .next (r (n + 1))

/-- Instance i holds the host request held (10_state R35). -/
def State.HeldAt (s : State) (i : Nat) (held : Instr) : Prop := ∃ o, s.ports[i]? = some o ∧ o.hreq = some held

/-- Weak fairness of the synchronizer at instance i: each of its five steps occurs infinitely often (43_sync_steps R189). -/
def Run.SyncFair (r : Run) (i : Nat) : Prop :=
  ∀ c n, ∃ m, n ≤ m ∧ (r m).draw.event = .sync i c

/-- Weak fairness of the complete step at instance i: a request whose completion condition stays true while it is held is not
held for ever. It stays held up to a state where the condition is false, or else up to a step that ends it: a complete step
that answers OK, or before one a timeout or a reset (43_sync_steps R189). -/
def Run.CompleteFair (r : Run) (i : Nat) : Prop :=
  ∀ n held, held.mayHold = true → held.wf = true → (r n).HeldAt i held →
    ∃ m, n ≤ m ∧ (∀ k, n ≤ k → k ≤ m → (r k).HeldAt i held) ∧
      (((r m).select i).canComplete held = false ∨
        ∃ o, (r (m + 1)).ports[i]? = some o ∧ o.hreq = none ∧
          (((r m).draw.event = .complete i ∧ ∃ x, o.hRsp = some x ∧ rspStatus x = 0) ∨
            (r m).draw.event = .timeout i ∨ (r m).draw.event = .reset))

/-- ENV_TX_LIVE at instance i: while tx_ie = 1, tx_ready is eventually true and TXSVC is eventually issued
(43_sync_steps R191). No step assumes it. -/
def Run.EnvTxLive (r : Run) (i : Nat) : Prop :=
  ∀ n, (∀ m, n ≤ m → ∃ o, (r m).ports[i]? = some o ∧ o.txIe = true) →
    ∃ m, n ≤ m ∧ (r m).draw.event = .device i 0x3000 ∧ (r m).draw.inputs.txReady = true

/-- ENV_TMO_LIVE at instance i: a held WaitUpTo request is eventually no longer held, or meets a TMO step whose tmo_expired is
true (43_sync_steps R191). It says nothing of a WaitForever request, and no step assumes it. -/
def Run.EnvTmoLive (r : Run) (i : Nat) : Prop :=
  ∀ n held, timeoutStatus held ≠ none → (r n).HeldAt i held →
    ∃ m, n ≤ m ∧ ((∃ o, (r m).ports[i]? = some o ∧ o.hreq = none) ∨
      ((r m).draw.event = .timeout i ∧ (r m).draw.inputs.tmoExpired = true))

/-- The draws in which the bytes of a list arrive one after another at instance i, each presented by RXSVC
(41_device_service R134, R138). -/
def rxArrivals (i : Nat) (bytes : List Byte) : List Draw :=
  bytes.map fun b =>
    { inputs := { txReady := false, rxHasData := true, rxByte := b, tmoExpired := false },
      event := .device i (Instr.rxsvc b).encode.1 }

/-- ENV_RX at instance i of a machine: while rx_ie = 1, any sequence of bytes may arrive, that is, some environment reads exactly
these bytes next, each by an RXSVC (43_sync_steps R191). No step assumes it. -/
def State.EnvRx (s : State) (i : Nat) : Prop :=
  ∀ o, s.ports[i]? = some o → o.rxIe = true → ∀ bytes : List Byte,
    ∃ r, IsRun r ∧ (∃ draws, r 0 = { s with inbox := draws }) ∧
      ∃ o', (r bytes.length).ports[i]? = some o' ∧ o'.rxRead = o.rxRead ++ bytes

/-- ENV_RX at instance i along a run (43_sync_steps R191). -/
def Run.EnvRx (r : Run) (i : Nat) : Prop := ∀ n, (r n).EnvRx i

/-- The stuck state of 70_reset_and_hazards R281 and 93 I14: an ENQ.TX.WF of b held on a TX queue that is full, with no interrupt
armed and no arm pending (full in truth: log entry 17). -/
def Port.StuckFull (p : Params) (b : Byte) (o : Port) : Prop :=
  o.tx.Ordered p ∧ o.tx.tcount p = p.cap ∧ o.hreq = some (.enqTxWf b) ∧ o.txIe = false ∧ o.armReq = false

end Sys2Proof.Machine
end

