-- ==== Sys2Proof/Certificates/Slice0/Obligations.lean ====
section
/-! DEFINITION. The statements for the provers, rule by rule of the spec. Each docstring names what it formalises. -/

open Sys2Proof Sys2Proof.Machine

/-! ## Encoding -/

/-- Words written out from the operation map decode to the requests they spell, each on a port that may spell it
(30_encoding R73, R74). -/
def Obligations.WordsDecodeAsTabled : Prop :=
  decode .host 0x0000 0 = .ok .nop ∧ decode .device 0x0000 0 = .ok .nop ∧
  decode .host 0x1041 0 = .ok (.enqTxNw 0x41) ∧ decode .host 0x1441 0 = .ok (.enqTxWf 0x41) ∧
  decode .host 0x1841 7 = .ok (.enqTxWt 0x41 7) ∧ decode .host 0x2200 0 = .ok .deqRxNw ∧
  decode .host 0x2600 0 = .ok .deqRxWf ∧ decode .host 0x2A00 3 = .ok (.deqRxWt 3) ∧
  decode .device 0x3000 0 = .ok .txsvc ∧ decode .device 0x4255 0 = .ok (.rxsvc 0x55) ∧
  decode .host 0x5000 0 = .ok .armtx ∧ decode .host 0x6200 0 = .ok .armrx ∧
  decode .host 0x7200 0 = .ok .ovfrd ∧ decode .host 0x8200 0 = .ok .ovfclr ∧
  decode .host 0x9000 0 = .ok .lvlTx ∧ decode .host 0x9200 0 = .ok .lvlRx

/-- Decoding the word and operand of a well-formed request, on a port that may spell it, gives the request back: no bit of an
operand is dropped (30_encoding R72, R73, R74). -/
def Obligations.DecodeOfEncodeIsIdentity : Prop :=
  ∀ (i : Instr) (port : ReqPort), i.wf = true → i.legalOn port = true →
    decode port i.encode.1 i.encode.2 = .ok i

/-- The other direction: a word that decodes is the word of the request it decodes to, which is well formed and legal on that
port; only a WaitUpTo with TMO = 0 is read as another word's request (30_encoding R72, R73, R77). -/
def Obligations.DecodedWordIsTheEncodedWord : Prop :=
  ∀ (port : ReqPort) (w : ReqWord) (tmo : Tmo) (i : Instr), decode port w tmo = .ok i →
    i.wf = true ∧ i.legalOn port = true ∧
    (reqPol w ≠ 0b10 ∨ tmo ≠ 0 → i.encode.1 = w) ∧
    (reqPol w = 0b10 → tmo ≠ 0 → i.encode.2 = tmo)

/-- POL = 10 with TMO = 0 is decoded as NoWait, and TMO is ignored when POL ≠ 10 (30_encoding R72). -/
def Obligations.ZeroTimeoutIsNoWait : Prop :=
  (∀ b : Byte, decode .host (reqWord 0x1 0b10 0 b) 0 = .ok (.enqTxNw b)) ∧
  decode .host (reqWord 0x2 0b10 1 0) 0 = .ok .deqRxNw ∧
  (∀ (port : ReqPort) (w : ReqWord) (t t' : Tmo), reqPol w ≠ 0b10 → decode port w t = decode port w t')

/-- A reserved operation, RSV = 1, POL = 11, a Q value or a non-zero field its operation does not allow: each is rejected, on
either port and with any TMO (30_encoding R74, R77; 90_conflicts C10). -/
def Obligations.MalformedWordsAreIllegal : Prop :=
  ∀ (port : ReqPort) (w : ReqWord) (tmo : Tmo),
    (10 ≤ (reqOp w).toNat ∨ reqRsv w = true ∨ reqPol w = 0b11 ∨
     (reqOp w = 0x0 ∧ w ≠ 0x0000) ∨ (reqOp w = 0x1 ∧ reqQ w = true) ∨
     (reqOp w = 0x2 ∧ (reqQ w = false ∨ reqData w ≠ 0)) ∨ (reqOp w = 0x3 ∧ w ≠ 0x3000) ∨
     (reqOp w = 0x4 ∧ (reqQ w = false ∨ reqPol w ≠ 0)) ∨ (reqOp w = 0x5 ∧ w ≠ 0x5000) ∨
     (reqOp w = 0x6 ∧ w ≠ 0x6200) ∨ (reqOp w = 0x7 ∧ w ≠ 0x7200) ∨ (reqOp w = 0x8 ∧ w ≠ 0x8200) ∨
     (reqOp w = 0x9 ∧ (reqPol w ≠ 0 ∨ reqData w ≠ 0))) →
    ∃ e, decode port w tmo = .error e

/-- A request's word on the port that may not spell it is rejected: the host cannot be TX's consumer or RX's producer, nor the
device TX's producer or RX's consumer (30_encoding R79, 60_exceptions R248). -/
def Obligations.OtherPortsWordsAreIllegal : Prop :=
  ∀ (i : Instr) (port : ReqPort), i.legalOn port = false →
    ∃ e, decode port i.encode.1 i.encode.2 = .error e

/-- An ILLEGAL request completes at once with status 3, never holds and writes no state; the model-level mark of R242 is set
(30_encoding R77, 60_exceptions R242; log entry 8). -/
def Obligations.IllegalRequestAnswersOnly : Prop :=
  ∀ (s : State) (w : ReqWord) (tmo : Tmo) (e : Illegal),
    (s.port.hreq = none → decode .host w tmo = .error e →
      issueHost w tmo s = .next { s with
        reqPort := .host, port := { s.port with hRsp := some 0x00000003, illegalIssued := true } }) ∧
    (decode .device w 0 = .error e →
      issueDevice w s = .next { s with
        reqPort := .device, port := { s.port with dRsp := some 0x00000003, illegalIssued := true } })

/-! ## Host queue transactions -/

/-- NOP: its word is 0x0000 on both ports, every other word with OP = 0 is rejected, and it answers OK on the port it came in on
and changes nothing else (40_queue_ops R115). -/
def Obligations.NopAnswersOk : Prop :=
  (∀ (port : ReqPort) (tmo : Tmo), decode port 0x0000 tmo = .ok .nop) ∧
  (∀ (port : ReqPort) (w : ReqWord) (tmo : Tmo), reqOp w = 0 → w ≠ 0x0000 → ∃ e, decode port w tmo = .error e) ∧
  (∀ s : State, s.reqPort = .host →
    exec .nop s = .next { s with port := { s.port with hRsp := some 0x00000000 } }) ∧
  (∀ s : State, s.reqPort = .device →
    exec .nop s = .next { s with port := { s.port with dRsp := some 0x00000000 } })

/-- ENQ of any policy where pcount(TX) < C completes: the byte is in slot wptr mod C, wptr has advanced mod 2C, OK is answered,
and tx_ie, arm_req and hreq are untouched (40_queue_ops R100). -/
def Obligations.EnqStoresAndAdvances : Prop :=
  ∀ (s : State) (i : Instr) (b : Byte), IsEnq i b → s.port.tx.pcount s.params < s.params.cap →
    ∃ t, exec i s = .next t ∧
      t.slot .tx (s.port.tx.wptr.toNat % s.params.span % s.params.cap) = b ∧
      t.port.tx.wptr.toNat = (s.port.tx.wptr.toNat % s.params.span + 1) % s.params.span ∧
      t.port.hRsp = some 0x00000000 ∧ t.port.hreq = s.port.hreq ∧
      t.port.txIe = s.port.txIe ∧ t.port.armReq = s.port.armReq

/-- ENQ where pcount(TX) is not below C: NoWait answers FULL, WaitForever and WaitUpTo hold, and nothing else changes
(40_queue_ops R100, R116; 30_encoding R72 for a TMO of 0). -/
def Obligations.EnqReportsFullOrHolds : Prop :=
  ∀ (s : State) (b : Byte), ¬ s.port.tx.pcount s.params < s.params.cap →
    exec (.enqTxNw b) s = .next { s with port := { s.port with hRsp := some 0x00000001 } } ∧
    exec (.enqTxWf b) s = .next { s with port := { s.port with hreq := some (.enqTxWf b) } } ∧
    exec (.enqTxWt b 0) s = .next { s with port := { s.port with hRsp := some 0x00000001 } } ∧
    ∀ n : Tmo, n ≠ 0 → exec (.enqTxWt b n) s = .next { s with port := { s.port with hreq := some (.enqTxWt b n) } }

/-- ENQ's frame: of the whole machine only TX's storage, TX.wptr, hreq and the response may change; every slot of both queues but
TX's slot wptr mod C reads as before; and where the queue is full, TX is unchanged (40_queue_ops R100, 10_state R22, R23). -/
def Obligations.EnqFrame : Prop :=
  ∀ (s t : State) (i : Instr) (b : Byte), IsEnq i b → exec i s = .next t →
    t = { s with port := { s.port with
      tx := { s.port.tx with mem := t.port.tx.mem, wptr := t.port.tx.wptr }, hreq := t.port.hreq, hRsp := t.port.hRsp } } ∧
    (∀ a, a ≠ slotOf s.params s.port.tx.wptr → t.slot .tx a = s.slot .tx a) ∧
    (∀ a, t.slot .rx a = s.slot .rx a) ∧
    (¬ s.port.tx.pcount s.params < s.params.cap → t.port.tx = s.port.tx)

/-- DEQ of any policy where ccount(RX) > 0 completes: it answers OK with the byte of slot rptr mod C and advances rptr mod 2C;
ovf and the held request are untouched (40_queue_ops R106). -/
def Obligations.DeqReturnsOldestByte : Prop :=
  ∀ (s : State) (i : Instr), IsDeq i → 0 < s.port.rx.ccount s.params →
    ∃ t, exec i s = .next t ∧
      (∃ r, t.port.hRsp = some r ∧ rspStatus r = 0 ∧ r.toNat / 2 ^ 16 = 0 ∧
        rspData r = s.slot .rx (s.port.rx.rptr.toNat % s.params.span % s.params.cap)) ∧
      t.port.rx.rptr.toNat = (s.port.rx.rptr.toNat % s.params.span + 1) % s.params.span ∧
      t.port.hreq = s.port.hreq ∧ t.port.ovf = s.port.ovf

/-- DEQ where ccount(RX) = 0: NoWait answers EMPTY, WaitForever and WaitUpTo hold, and nothing else changes
(40_queue_ops R106, R116; 30_encoding R72 for a TMO of 0). -/
def Obligations.DeqReportsEmptyOrHolds : Prop :=
  ∀ s : State, s.port.rx.ccount s.params = 0 →
    exec .deqRxNw s = .next { s with port := { s.port with hRsp := some 0x00000002 } } ∧
    exec .deqRxWf s = .next { s with port := { s.port with hreq := some .deqRxWf } } ∧
    exec (.deqRxWt 0) s = .next { s with port := { s.port with hRsp := some 0x00000002 } } ∧
    ∀ n : Tmo, n ≠ 0 → exec (.deqRxWt n) s = .next { s with port := { s.port with hreq := some (.deqRxWt n) } }

/-- A DEQ.RX.NW issued while ccount(RX) = 0 returns EMPTY in its issue step and changes no state (40_queue_ops R108). -/
def Obligations.DeqNoWaitOnEmptyAnswersAtOnce : Prop :=
  ∀ (s : State) (tmo : Tmo), s.port.hreq = none → s.port.rx.ccount s.params = 0 →
    issueHost 0x2200 tmo s = .next { s with reqPort := .host, port := { s.port with hRsp := some 0x00000002 } }

/-- DEQ's frame: of the whole machine only RX.rptr, hreq and the response may change, and every slot reads as before
(40_queue_ops R106, 10_state R22, R24). -/
def Obligations.DeqFrame : Prop :=
  ∀ (s t : State) (i : Instr), IsDeq i → exec i s = .next t →
    t = { s with port := { s.port with
      rx := { s.port.rx with rptr := t.port.rx.rptr }, hreq := t.port.hreq, hRsp := t.port.hRsp } } ∧
    (∀ q a, t.slot q a = s.slot q a) ∧
    (s.port.rx.ccount s.params = 0 → t.port.rx = s.port.rx)

/-- LVL answers OK with the host's own view of the occupancy in COUNT: pcount(TX), ccount(RX) (40_queue_ops R112). -/
def Obligations.LvlReadsOwnView : Prop :=
  ∀ s : State,
    (∃ t r, exec .lvlTx s = .next t ∧ t.port.hRsp = some r ∧
      rspStatus r = 0 ∧ rspData r = 0 ∧ r.toNat / 2 ^ 16 = s.port.tx.pcount s.params) ∧
    (∃ t r, exec .lvlRx s = .next t ∧ t.port.hRsp = some r ∧
      rspStatus r = 0 ∧ rspData r = 0 ∧ r.toNat / 2 ^ 16 = s.port.rx.ccount s.params)

/-! ## Device-port service transactions -/

/-- An enabled TXSVC: where ccount(TX) = 0 it disarms and answers IDLE; else it emits the byte of slot rptr mod C, advances rptr
mod 2C, leaves tx_ie and answers OK with the byte (41_device_service R130, R138). -/
def Obligations.TxsvcEmitsOrDisarms : Prop :=
  ∀ s : State, s.port.txIe = true → s.inputs.txReady = true →
    (s.port.tx.ccount s.params = 0 →
      exec .txsvc s = .next { s with port := { s.port with txIe := false, dRsp := some 0x00000005 } }) ∧
    (s.port.tx.ccount s.params ≠ 0 → ∃ t b r, exec .txsvc s = .next t ∧
      b = s.slot .tx (s.port.tx.rptr.toNat % s.params.span % s.params.cap) ∧
      t.port.txOut = s.port.txOut ++ [b] ∧ t.port.txIe = true ∧
      t.port.tx.rptr.toNat = (s.port.tx.rptr.toNat % s.params.span + 1) % s.params.span ∧
      t.port.dRsp = some r ∧ rspStatus r = 0 ∧ rspData r = b)

/-- An enabled RXSVC b reads b from the UART with a read acknowledge, whatever follows: where pcount(RX) = C the byte is dropped,
ovf is set and DROPPED answered, with RX unchanged; else the byte is in slot wptr mod C, wptr has advanced mod 2C and OK is
answered (41_device_service R134, R135, R138, 60_exceptions R250; the record of the reads is log entry 9). -/
def Obligations.RxsvcStoresOrDrops : Prop :=
  ∀ (s : State) (b : Byte), s.port.rxIe = true → s.inputs.rxHasData = true → s.inputs.rxByte = b →
    (s.port.rx.pcount s.params = s.params.cap →
      exec (.rxsvc b) s = .next { s with port := { s.port with
        ovf := true, rxRead := s.port.rxRead ++ [b], dRsp := some 0x00000004 } }) ∧
    (s.port.rx.pcount s.params ≠ s.params.cap → ∃ t, exec (.rxsvc b) s = .next t ∧
      t.slot .rx (s.port.rx.wptr.toNat % s.params.span % s.params.cap) = b ∧
      t.port.rx.wptr.toNat = (s.port.rx.wptr.toNat % s.params.span + 1) % s.params.span ∧
      t.port.rxRead = s.port.rxRead ++ [b] ∧ t.port.ovf = s.port.ovf ∧ t.port.dRsp = some 0x00000000)

/-- With its enable bit 0 or its UART condition false, the device port has no TXSVC and no RXSVC step: nothing changes
(41_device_service R138; that a step not enabled leaves the machine as it is, is log entry 5). -/
def Obligations.DeviceServiceNotEnabledHasNoStep : Prop :=
  ∀ s : State,
    (s.port.txIe = false ∨ s.inputs.txReady = false → exec .txsvc s = .next s) ∧
    (∀ b : Byte, s.port.rxIe = false ∨ s.inputs.rxHasData = false ∨ s.inputs.rxByte ≠ b → exec (.rxsvc b) s = .next s)

/-- The device services' frames: TXSVC changes at most TX.rptr, tx_ie, the emitted stream and the D response, and no slot;
RXSVC at most RX's storage, RX.wptr, ovf, the record of bytes read and the D response, and no slot but RX's slot wptr mod C
(41_device_service R130, R134, R139). -/
def Obligations.DeviceServiceFrames : Prop :=
  ∀ s t : State,
    (exec .txsvc s = .next t →
      t = { s with port := { s.port with
        tx := { s.port.tx with rptr := t.port.tx.rptr }, txIe := t.port.txIe, txOut := t.port.txOut,
        dRsp := t.port.dRsp } } ∧
      ∀ q a, t.slot q a = s.slot q a) ∧
    (∀ b : Byte, exec (.rxsvc b) s = .next t →
      t = { s with port := { s.port with
        rx := { s.port.rx with mem := t.port.rx.mem, wptr := t.port.rx.wptr }, ovf := t.port.ovf,
        rxRead := t.port.rxRead, dRsp := t.port.dRsp } } ∧
      (∀ a, a ≠ slotOf s.params s.port.rx.wptr → t.slot .rx a = s.slot .rx a) ∧
      (∀ a, t.slot .tx a = s.slot .tx a) ∧
      (s.port.rx.pcount s.params = s.params.cap → t.port.rx = s.port.rx))

/-- The two services touch disjoint state: in either order they reach the same machine, up to which of the two gave the latest
D response (41_device_service R139; that the model holds the latest response only is log entry 9). -/
def Obligations.DeviceServicesCommute : Prop :=
  ∀ (s t₁ t₂ u₁ u₂ : State) (b : Byte),
    exec .txsvc s = .next t₁ → exec (.rxsvc b) t₁ = .next t₂ →
    exec (.rxsvc b) s = .next u₁ → exec .txsvc u₁ = .next u₂ →
    t₂ = { u₂ with port := { u₂.port with dRsp := t₂.port.dRsp } }

/-! ## Interrupt arm and overflow flag -/

/-- ARMTX: tx_ie <- 1 with SYNC_STAGES = 0, arm_req <- 1 with SYNC_STAGES ≥ 2; OK (42_irq_and_flag R150). -/
def Obligations.ArmtxArms : Prop :=
  ∀ s : State,
    (s.params.sync = .bypassed →
      exec .armtx s = .next { s with port := { s.port with txIe := true, hRsp := some 0x00000000 } }) ∧
    (∀ n, s.params.sync = .chain n →
      exec .armtx s = .next { s with port := { s.port with armReq := true, hRsp := some 0x00000000 } })

/-- Two ARMTX in a row leave the same state as one (42_irq_and_flag R152). -/
def Obligations.ArmtxIsIdempotent : Prop :=
  ∀ s t : State, exec .armtx s = .next t →
    exec .armtx t = .next t ∧
    (s.params.sync = .bypassed → t.port.txIe = true) ∧ (∀ n, s.params.sync = .chain n → t.port.armReq = true)

/-- ARMRX: rx_ie <- 1, OK, whatever SYNC_STAGES (42_irq_and_flag R153). -/
def Obligations.ArmrxEnablesReceive : Prop :=
  ∀ s : State, exec .armrx s = .next { s with port := { s.port with rxIe := true, hRsp := some 0x00000000 } }

/-- OVFRD answers OK with ovf_h in RSP[8] and changes no state (42_irq_and_flag R155). -/
def Obligations.OvfrdReadsView : Prop :=
  ∀ s : State, exec .ovfrd s = .next { s with port := { s.port with
    hRsp := some (if s.port.ovfH then 0x00000100 else 0x00000000) } }

/-- OVFCLR answers OK with ovf as it was just before the clear in RSP[8], and clears ovf and ovf_h (42_irq_and_flag R157). -/
def Obligations.OvfclrReadsAndClears : Prop :=
  ∀ s : State, exec .ovfclr s = .next { s with port := { s.port with
    ovf := false, ovfH := false, hRsp := some (if s.port.ovf then 0x00000100 else 0x00000000) } }

/-- The frame of the host's flag and level transactions: ARMTX writes tx_ie or arm_req, ARMRX rx_ie, OVFCLR ovf and ovf_h, and
OVFRD, LVL and NOP no state; beside that only a response changes, and every slot reads as before
(42_irq_and_flag R150 to R157, 40_queue_ops R112, R115, 20_memory R59). -/
def Obligations.FlagTransactionsFrame : Prop :=
  ∀ (s t : State) (i : Instr), i ∈ [Instr.armtx, .armrx, .ovfrd, .ovfclr, .lvlTx, .lvlRx, .nop] → exec i s = .next t →
    t = { s with port := { s.port with
      txIe := t.port.txIe, armReq := t.port.armReq, rxIe := t.port.rxIe, ovf := t.port.ovf, ovfH := t.port.ovfH,
      hRsp := t.port.hRsp, dRsp := t.port.dRsp } } ∧
    (i ≠ .armtx → t.port.txIe = s.port.txIe ∧ t.port.armReq = s.port.armReq) ∧
    (i ≠ .armrx → t.port.rxIe = s.port.rxIe) ∧
    (i ≠ .ovfclr → t.port.ovf = s.port.ovf ∧ t.port.ovfH = s.port.ovfH) ∧
    (i ≠ .nop ∨ s.reqPort = .host → t.port.dRsp = s.port.dRsp) ∧
    (i = .nop → s.reqPort = .device → t.port.hRsp = s.port.hRsp) ∧
    ∀ q a, t.slot q a = s.slot q a

/-- Over all transactions: tx_ie rises only by ARMTX (SYNC_STAGES = 0) and falls only by a TXSVC that finds TX empty; arm_req
rises only by ARMTX (SYNC_STAGES ≥ 2); rx_ie rises only by ARMRX and never falls; ovf rises only by an RXSVC that finds RX full
and falls only by OVFCLR; ovf_h only falls, and only by OVFCLR (42_irq_and_flag R159, 10_state R30 to R34). -/
def Obligations.FlagSourcesAmongTransactions : Prop :=
  ∀ (s t : State) (i : Instr), exec i s = .next t →
    (t.port.txIe ≠ s.port.txIe →
      (t.port.txIe = true ∧ i = .armtx ∧ s.params.sync = .bypassed) ∨
      (t.port.txIe = false ∧ i = .txsvc ∧ s.port.tx.ccount s.params = 0)) ∧
    (t.port.armReq ≠ s.port.armReq → t.port.armReq = true ∧ i = .armtx ∧ s.params.sync ≠ .bypassed) ∧
    (t.port.rxIe ≠ s.port.rxIe → t.port.rxIe = true ∧ i = .armrx) ∧
    (t.port.ovf ≠ s.port.ovf →
      (t.port.ovf = true ∧ (∃ b, i = .rxsvc b) ∧ s.port.rx.pcount s.params = s.params.cap) ∨
      (t.port.ovf = false ∧ i = .ovfclr)) ∧
    (t.port.ovfH ≠ s.port.ovfH → t.port.ovfH = false ∧ i = .ovfclr)

/-! ## Holding, completing, timing out -/

/-- Only ENQ and DEQ with WaitForever or WaitUpTo can change hreq; and where the response latch of its port is empty before, every
other host transaction, and every device transaction that is issued, has its answer there after exec (40_queue_ops R117). The
latches are the model's, log entry 9: port D's keeps the latest answer, so after the first one this says nothing more of port D, and
the statements on NOP, TXSVC and RXSVC give those answers at every state. -/
def Obligations.OnlyWaitingRequestsHold : Prop :=
  ∀ (s t : State) (i : Instr), exec i s = .next t →
    (t.port.hreq ≠ s.port.hreq →
      (∃ b, i = .enqTxWf b) ∨ (∃ b n, i = .enqTxWt b n) ∨ i = .deqRxWf ∨ ∃ n, i = .deqRxWt n) ∧
    ((∃ b, i = .enqTxNw b) ∨ i ∈ [Instr.deqRxNw, .armtx, .armrx, .ovfrd, .ovfclr, .lvlTx, .lvlRx] ∨
        (i = .nop ∧ s.reqPort = .host) → s.port.hRsp = none → t.port.hRsp ≠ none) ∧
    ((i = .txsvc ∧ s.port.txIe = true ∧ s.inputs.txReady = true) ∨
        (∃ b, i = .rxsvc b ∧ s.port.rxIe = true ∧ s.inputs.rxHasData = true ∧ s.inputs.rxByte = b) ∨
        (i = .nop ∧ s.reqPort = .device) → s.port.dRsp = none → t.port.dRsp ≠ none)

/-- The complete step of a held request: where its completion condition now holds, its effect is that of the request on a free
port, it answers OK and hreq is none; where not, there is no step, so nothing changes
(40_queue_ops R116; that a step not enabled leaves the machine as it is, is log entry 5). -/
def Obligations.HeldRequestCompletes : Prop :=
  ∀ (s : State) (i : Instr), s.port.hreq = some i → i.mayHold = true → i.wf = true →
    (s.canComplete i = true → ∃ t r, completeHeld s = .next t ∧
      exec i { s with port := { s.port with hreq := none } } = .next t ∧
      t.port.hreq = none ∧ t.port.hRsp = some r ∧ rspStatus r = 0) ∧
    (s.canComplete i = false → completeHeld s = .next s)

/-- While a request is held, port H accepts no other request: a word, whichever, changes nothing (40_queue_ops R116, 10_state R35;
log entry 5). -/
def Obligations.HeldRequestBlocksPort : Prop :=
  ∀ (s : State) (i : Instr) (w : ReqWord) (tmo : Tmo), s.port.hreq = some i → issueHost w tmo s = .next s

/-- The TMO step: a held WaitUpTo whose completion condition is false and whose time has run ends with FULL (ENQ) or EMPTY (DEQ),
hreq none and nothing else changed. Where the condition is true there is no such step, so FULL and EMPTY come by timeout only
while the producer sees the queue full, the consumer empty; a WaitForever, a free port or a time not run has no such step either
(43_sync_steps R190, 30_encoding R76, 40_queue_ops R103, R109; that R190's Enabled line decides is log entry 6; that a TMO step not
enabled, a tmo_expired that is false among the reasons, leaves the machine as it is, is log entry 5). -/
def Obligations.TimeoutEndsWait : Prop :=
  ∀ s : State,
    (∀ (b : Byte) (n : Tmo), s.port.hreq = some (.enqTxWt b n) → s.inputs.tmoExpired = true →
      (¬ s.port.tx.pcount s.params < s.params.cap →
        s.timeoutStep = { s with port := { s.port with hreq := none, hRsp := some 0x00000001 } }) ∧
      (s.port.tx.pcount s.params < s.params.cap → s.timeoutStep = s)) ∧
    (∀ n : Tmo, s.port.hreq = some (.deqRxWt n) → s.inputs.tmoExpired = true →
      (s.port.rx.ccount s.params = 0 →
        s.timeoutStep = { s with port := { s.port with hreq := none, hRsp := some 0x00000002 } }) ∧
      (s.port.rx.ccount s.params ≠ 0 → s.timeoutStep = s)) ∧
    (s.port.hreq = none ∨ (∃ b, s.port.hreq = some (.enqTxWf b)) ∨ s.port.hreq = some .deqRxWf ∨
      s.inputs.tmoExpired = false → s.timeoutStep = s)

/-! ## Synchronizer -/

/-- SYNC.TXW, always enabled with SYNC_STAGES ≥ 2: TX.wsync takes the gray code of TX.wptr and, in the same step, a pending arm
request sets tx_ie and is cleared; nothing else changes (43_sync_steps R182). -/
def Obligations.SyncTxwPublishesPointerAndArm : Prop :=
  ∀ (s : State) (n : Nat), s.params.sync = .chain n →
    (s.port.armReq = true → s.syncStep .txw = { s with port := { s.port with
      tx := { s.port.tx with wsync := b2g (BitVec.ofNat 16 (s.port.tx.wptr.toNat % s.params.span)) },
      txIe := true, armReq := false } }) ∧
    (s.port.armReq = false → s.syncStep .txw = { s with port := { s.port with
      tx := { s.port.tx with wsync := b2g (BitVec.ofNat 16 (s.port.tx.wptr.toNat % s.params.span)) } } })

/-- SYNC.TXR, SYNC.RXW and SYNC.RXR, always enabled with SYNC_STAGES ≥ 2: the view takes the gray code of its pointer and nothing
else changes; and the rules' K = 2 examples (43_sync_steps R183, R184, R185). -/
def Obligations.PointerCrossingsCopyGrayCode : Prop :=
  (∀ (s : State) (n : Nat), s.params.sync = .chain n →
    s.syncStep .txr = { s with port := { s.port with
      tx := { s.port.tx with rsync := b2g (BitVec.ofNat 16 (s.port.tx.rptr.toNat % s.params.span)) } } } ∧
    s.syncStep .rxw = { s with port := { s.port with
      rx := { s.port.rx with wsync := b2g (BitVec.ofNat 16 (s.port.rx.wptr.toNat % s.params.span)) } } } ∧
    s.syncStep .rxr = { s with port := { s.port with
      rx := { s.port.rx with rsync := b2g (BitVec.ofNat 16 (s.port.rx.rptr.toNat % s.params.span)) } } }) ∧
  (∀ (s : State) (n : Nat), s.params.sync = .chain n → s.params.k = 2 →
    (s.port.tx.rptr = 3 → s.port.tx.rsync = 0b001 → (s.syncStep .txr).port.tx.rsync = 0b010) ∧
    (s.port.rx.wptr = 4 → (s.syncStep .rxw).port.rx.wsync = 0b110) ∧
    (s.port.rx.rptr = 5 → (s.syncStep .rxr).port.rx.rsync = 0b111))

/-- SYNC.OVF, always enabled with SYNC_STAGES ≥ 2: ovf_h takes ovf and nothing else changes (43_sync_steps R187). -/
def Obligations.SyncOvfCopiesFlag : Prop :=
  ∀ (s : State) (n : Nat), s.params.sync = .chain n →
    s.syncStep .ovf = { s with port := { s.port with ovfH := s.port.ovf } }

/-- With SYNC_STAGES = 0 the synchronizer's steps are no-ops; after a step every view of the instance at hand equals its source;
that and an arm_req of 0 are kept at every instance; and where views are settled, pcount = ccount = tcount for both queues
(43_sync_steps R181). -/
def Obligations.SingleClockViewsFollowSources : Prop :=
  (∀ (s : State) (c : Crossing), s.params.sync = .bypassed → s.syncStep c = s) ∧
  (∀ s t : State, s.params.sync = .bypassed → step s = .next t →
    t.port.tx.wsync = b2g (BitVec.ofNat 16 (t.port.tx.wptr.toNat % t.params.span)) ∧
    t.port.rx.wsync = b2g (BitVec.ofNat 16 (t.port.rx.wptr.toNat % t.params.span)) ∧
    t.port.tx.rsync = b2g (BitVec.ofNat 16 (t.port.tx.rptr.toNat % t.params.span)) ∧
    t.port.rx.rsync = b2g (BitVec.ofNat 16 (t.port.rx.rptr.toNat % t.params.span)) ∧ t.port.ovfH = t.port.ovf) ∧
  (∀ s t : State, s.CurOk → s.params.sync = .bypassed → step s = .next t →
    s.AllPorts (fun o => o.settled s.params = true ∧ o.armReq = false) →
    t.AllPorts (fun o => o.settled s.params = true ∧ o.armReq = false)) ∧
  (∀ (p : Params) (o : Port), o.settled p = true →
    (o.tx.pcount p = o.tx.tcount p ∧ o.tx.ccount p = o.tx.tcount p) ∧
    (o.rx.pcount p = o.rx.tcount p ∧ o.rx.ccount p = o.rx.tcount p))

/-- The gray codes of neighbouring pointer values, the wrap from 2C-1 to 0 included, differ in exactly one bit, one of the K+1
(43_sync_steps R188, 00_scope R12). -/
def Obligations.NeighbourGrayCodesDifferInOneBit : Prop :=
  ∀ (p : Params) (x : Nat), x < p.span →
    ∃ j, j ≤ p.k.val ∧
      b2g (BitVec.ofNat 16 x) ^^^ b2g (BitVec.ofNat 16 ((x + 1) % p.span)) = (1 : Ptr) <<< j

/-! ## Steps of the machine -/

/-- A step whose placed draw presents a word on a request port of instance j runs exec of the decoded request there, after the word
is accepted and before the eager sync; on port H this asks for no held request and no running host sequence, and with either the
word changes nothing; a word that does not decode is answered ILLEGAL. A placed draw with no word runs its own operation the same
way: a synchronizer step, the TMO step, the complete step or the host sequence's move at instance j, an API call, a power-on reset
(40_queue_ops R116, 30_encoding R74, R81, 20_memory R60; the placed draw is log entry 3, that a word the port does not accept changes
nothing is log entry 5, that the eager sync ends the step is log entry 12, that a reset is an event is log entry 13, that a host with
a running sequence presents no other word, and its moves, are log entry 14). -/
def Obligations.StepRunsTheDecodedRequest : Prop :=
  ∀ (s : State) (rest : List Draw) (inp : Inputs),
    (∀ (j : Nat) (w : ReqWord) (tmo : Tmo) (c : Crossing), j < s.nports →
      (s.inbox = ⟨inp, .host j w tmo⟩ :: rest →
        ((s.taken.select j).port.hreq = none → (s.taken.select j).port.host.seq = none →
          (∀ i, decode .host w tmo = .ok i →
            step s = settleOutcome (exec i ((s.taken.select j).accept .host))) ∧
          (∀ e, decode .host w tmo = .error e →
            step s = .next ((((s.taken.select j).accept .host).modPort (Port.answerIllegal .host)).settle))) ∧
        ((s.taken.select j).port.hreq ≠ none ∨ (s.taken.select j).port.host.seq ≠ none →
          step s = .next (s.taken.select j).settle)) ∧
      (s.inbox = ⟨inp, .device j w⟩ :: rest →
        (∀ i, decode .device w 0 = .ok i →
          step s = settleOutcome (exec i ((s.taken.select j).accept .device))) ∧
        (∀ e, decode .device w 0 = .error e →
          step s = .next ((((s.taken.select j).accept .device).modPort (Port.answerIllegal .device)).settle))) ∧
      (s.inbox = ⟨inp, .sync j c⟩ :: rest → step s = .next ((s.taken.select j).syncStep c).settle) ∧
      (s.inbox = ⟨inp, .timeout j⟩ :: rest → step s = .next (s.taken.select j).timeoutStep.settle) ∧
      (s.inbox = ⟨inp, .complete j⟩ :: rest → step s = settleOutcome (completeHeld (s.taken.select j))) ∧
      (s.inbox = ⟨inp, .driver j⟩ :: rest → step s = settleOutcome (driverStep (s.taken.select j)))) ∧
    (∀ (portId : Nat) (c : ApiCall), s.inbox = ⟨inp, .call portId c⟩ :: rest →
      step s = .next (s.taken.apiCall portId c).settle) ∧
    (s.inbox = ⟨inp, .reset⟩ :: rest → step s = .next s.taken.powerOn.settle)

/-- A table word placed by withFetchWord is the request the very next step runs (log entries 4 and 7: the placing is the model's). -/
def Obligations.PlacedWordIsTheNextRequest : Prop :=
  ∀ (s : State) (nbits w : Nat) (i : Instr), s.CurOk → decodeTableWord nbits w = some i →
    step (s.withFetchWord nbits w) =
      settleOutcome (exec i ((s.withFetchWord nbits w).taken.accept
        (tablePort (tableReqWord nbits w) (tableTmo nbits w))))

/-- No step faults and none is refused, so a run never ends (60_exceptions R240); and every infinite run is weakly fair at each
of its instances: each of the five synchronizer steps occurs infinitely often, and a held request whose condition stays true
completes, unless a timeout or a reset ends it first (43_sync_steps R189; how the free draws are made fair is log entry 16). -/
def Obligations.RunsGoOnAndAreFair : Prop :=
  (∀ s : State, ∃ t, step s = .next t) ∧
  (∀ (r : Run) (i : Nat), IsRun r → i < (r 0).nports → r.SyncFair i) ∧
  (∀ (r : Run) (i : Nat), IsRun r → (r 0).CurOk → i < (r 0).nports → r.CompleteFair i)

/-- After reset, for any parameters, every field of every instance has the value the spec gives it, the queues are empty, every
view agrees with its pointer, and a slot's byte is the unknown one (70_reset_and_hazards R270, R273; 10_state R22 to R36). -/
def Obligations.ResetLeavesTheSpecsValues : Prop :=
  ∀ p : Params,
    (∀ o, o ∈ (State.resetWith p).ports →
      (o.tx.wptr = 0 ∧ o.tx.rptr = 0 ∧ o.tx.wsync = 0 ∧ o.tx.rsync = 0) ∧
      (o.rx.wptr = 0 ∧ o.rx.rptr = 0 ∧ o.rx.wsync = 0 ∧ o.rx.rsync = 0) ∧
      (o.ovf = false ∧ o.ovfH = false ∧ o.txIe = false ∧ o.rxIe = false ∧ o.armReq = false ∧ o.hreq = none) ∧
      (o.host.initialized = false ∧ o.host.autocrlf = false) ∧
      (o.tx.ccount p = 0 ∧ o.rx.ccount p = 0 ∧ o.settled p = true)) ∧
    (p.wf = true → (State.resetWith p).nports = p.portIds.length) ∧
    (∀ q a, (State.resetWith p).slot q a = Config.slotReset 0 0 q a)

/-- A power-on reset at any state puts every instance in its reset values, abandons a held request and the running host
sequences, and changes neither the parameters nor the number of instances (70_reset_and_hazards R270, R272, R273; that the
outputs txOut, rxRead and hRsp start anew with it is the model's choice, log entries 9 and 13). -/
def Obligations.PowerOnResetAbandonsEverything : Prop :=
  ∀ (s : State) (rest : List Draw) (inp : Inputs), s.inbox = ⟨inp, .reset⟩ :: rest →
    ∃ t, step s = .next t ∧ t.params = s.params ∧ t.nports = s.nports ∧
      t.AllPorts (fun o => o.tx = Queue.reset ∧ o.rx = Queue.reset ∧ o.ovf = false ∧ o.ovfH = false ∧
        o.txIe = false ∧ o.armReq = false ∧ o.rxIe = false ∧ o.hreq = none ∧ o.txOut = [] ∧ o.rxRead = [] ∧ o.hRsp = none ∧
        o.host.initialized = false ∧ o.host.autocrlf = false ∧ o.host.seq = none)

/-- The invariants hold after reset, for any parameters: every instance is good, ovf_h is 1 only where ovf is, every queued byte is
covered by an arm, and the instance at hand exists (70_reset_and_hazards R270, R282, 10_state R28, 43_sync_steps R187; that
State.cur numbers an instance is log entry 10). -/
def Obligations.ResetIsGood : Prop :=
  ∀ p : Params,
    (State.resetWith p).AllPorts (Port.Good p) ∧
    (State.resetWith p).AllPorts (fun o => o.ovfH = true → o.ovf = true) ∧
    (State.resetWith p).AllPorts (Port.ArmCovered p) ∧
    (State.resetWith p).CurOk

/-! ## Invariants of every step -/

/-- Every step keeps 0 ≤ ccount(q) ≤ tcount(q) ≤ pcount(q) ≤ C at every queue of every instance (10_state R28). -/
def Obligations.OccupancyOrderKept : Prop :=
  ∀ s t : State, s.CurOk → step s = .next t →
    s.AllPorts (fun o => o.tx.Ordered s.params ∧ o.rx.Ordered s.params) →
    t.AllPorts (fun o => o.tx.Ordered s.params ∧ o.rx.Ordered s.params)

/-- Every step keeps every storage in its canonical form within the C slots, and every pointer and view within its K+1 bits
(20_memory R50, 10_state R22 to R26; the canonical form is the model's, log entry 2). -/
def Obligations.StorageAndRegistersKeepForm : Prop :=
  ∀ s t : State, s.CurOk → step s = .next t →
    s.AllPorts (fun o => (o.tx.StorageOk s.params ∧ o.rx.StorageOk s.params) ∧
      (o.tx.InWidth s.params ∧ o.rx.InWidth s.params)) →
    t.AllPorts (fun o => (o.tx.StorageOk s.params ∧ o.rx.StorageOk s.params) ∧
      (o.tx.InWidth s.params ∧ o.rx.InWidth s.params))

/-- Every step keeps, beside the order of counts, that every live slot has been written; so the slot a consumer reads where its
count is above 0 has been written since reset, and no unknown byte is ever answered or emitted (20_memory R54). -/
def Obligations.LiveSlotsStayWritten : Prop :=
  (∀ s t : State, s.CurOk → step s = .next t →
    s.AllPorts (fun o => (o.tx.Ordered s.params ∧ o.rx.Ordered s.params) ∧
      (o.tx.LiveWritten s.params ∧ o.rx.LiveWritten s.params)) →
    t.AllPorts (fun o => o.tx.LiveWritten s.params ∧ o.rx.LiveWritten s.params)) ∧
  (∀ (p : Params) (q : Queue), q.Ordered p → q.LiveWritten p → 0 < q.ccount p →
    (Memory.read q.mem (slotOf p q.rptr)).isSome = true)

/-- Every step keeps that hreq holds nothing or a well-formed request that may hold (10_state R35, 40_queue_ops R117). -/
def Obligations.HeldRequestStaysLegal : Prop :=
  ∀ s t : State, s.CurOk → step s = .next t → s.AllPorts Port.HeldMayHold → t.AllPorts Port.HeldMayHold

/-- ovf_h is 1 only while ovf is 1, at every instance and under every step: the host never reads an overflow that no drop since
the last clear has caused (43_sync_steps R187, 42_irq_and_flag R155, R157). -/
def Obligations.OverflowViewNeverAhead : Prop :=
  ∀ s t : State, s.CurOk → step s = .next t →
    s.AllPorts (fun o => o.ovfH = true → o.ovf = true) → t.AllPorts (fun o => o.ovfH = true → o.ovf = true)

/-- No step changes the parameters or the number of instances; none clears the model-level mark, and none but a power-on reset
clears an rx_ie. In the host record, none but a power-on reset clears initialized, and only the move that ends an init sets it;
an init begins only by a call of init to that port, and none but such a call of set_autocrlf, or a power-on reset, changes
autocrlf (00_scope R7 to R9, 60_exceptions R242, 10_state R34, R36, 70_reset_and_hazards R273; that a power-on keeps the mark is
log entry 8, that `cur` stays the number of an instance is log entry 10, that an init runs in moves is log entry 14). -/
def Obligations.StickyThingsStay : Prop :=
  ∀ s t : State, step s = .next t →
    t.params = s.params ∧ t.nports = s.nports ∧
    (s.CurOk → t.CurOk ∧ ∀ (j : Nat) (o o' : Port), s.ports[j]? = some o → t.ports[j]? = some o' →
      (o.illegalIssued = true → o'.illegalIssued = true) ∧
      (s.draw.event ≠ .reset → o.rxIe = true → o'.rxIe = true) ∧
      (s.draw.event ≠ .reset → o.host.initialized = true → o'.host.initialized = true) ∧
      (o.host.initialized = false → o'.host.initialized = true →
        s.draw.event = .driver j ∧ o.host.seq = some .init) ∧
      (o.host.seq ≠ some .init → o'.host.seq = some .init →
        ∃ portId baud, s.draw.event = .call portId (.init baud) ∧ lookupPort s.params portId = some j) ∧
      (o'.host.autocrlf ≠ o.host.autocrlf → s.draw.event = .reset ∨
        ∃ portId, s.draw.event = .call portId (.setAutocrlf o'.host.autocrlf) ∧ lookupPort s.params portId = some j))

/-- A producer writes only a slot outside the live region: where pcount(q) < C, slot wptr mod C holds no live byte; and no
transaction changes a byte that its consumer has not yet dequeued (20_memory R55). -/
def Obligations.LiveSlotsNeverOverwritten : Prop :=
  (∀ (p : Params) (q : Queue), q.Ordered p → q.pcount p < p.cap →
    ∀ j, j < q.tcount p → q.liveSlot p j ≠ slotOf p q.wptr) ∧
  (∀ (s t : State) (i : Instr), s.port.tx.Ordered s.params → s.port.rx.Ordered s.params → exec i s = .next t →
    (∀ j, j < s.port.tx.tcount s.params →
      Memory.read t.port.tx.mem (s.port.tx.liveSlot s.params j) = Memory.read s.port.tx.mem (s.port.tx.liveSlot s.params j)) ∧
    (∀ j, j < s.port.rx.tcount s.params →
      Memory.read t.port.rx.mem (s.port.rx.liveSlot s.params j) = Memory.read s.port.rx.mem (s.port.rx.liveSlot s.params j)))

/-- Each queue is strict FIFO: seen as the list of its live bytes, a completed ENQ or a storing RXSVC appends its byte, a TXSVC
that sends or a completed DEQ takes the oldest byte and emits or answers it, and every other transaction and every synchronizer
step leaves the list as it is (20_memory R56, 41_device_service R133). -/
def Obligations.QueuesAreFifo : Prop :=
  ∀ (s t : State) (i : Instr), s.port.tx.Ordered s.params → s.port.rx.Ordered s.params →
    s.port.tx.LiveWritten s.params → s.port.rx.LiveWritten s.params → exec i s = .next t →
    ((∀ b, IsEnq i b → s.port.tx.pcount s.params < s.params.cap →
        t.port.tx.contents s.params = s.port.tx.contents s.params ++ [some b]) ∧
      (i = .txsvc → s.txsvcEnabled = true → s.port.tx.ccount s.params ≠ 0 →
        s.port.tx.contents s.params = some s.txHead :: t.port.tx.contents s.params ∧
        t.port.txOut = s.port.txOut ++ [s.txHead]) ∧
      ((∀ b, IsEnq i b → ¬ s.port.tx.pcount s.params < s.params.cap) →
        (i = .txsvc → s.txsvcEnabled = false ∨ s.port.tx.ccount s.params = 0) →
        t.port.tx.contents s.params = s.port.tx.contents s.params ∧ t.port.txOut = s.port.txOut)) ∧
    ((∀ b, i = .rxsvc b → s.rxsvcEnabled b = true → s.port.rx.pcount s.params ≠ s.params.cap →
        t.port.rx.contents s.params = s.port.rx.contents s.params ++ [some b]) ∧
      (IsDeq i → 0 < s.port.rx.ccount s.params →
        s.port.rx.contents s.params = some s.rxHead :: t.port.rx.contents s.params ∧
        t.port.hRsp = some (response .ok s.rxHead 0)) ∧
      ((∀ b, i = .rxsvc b → s.rxsvcEnabled b = false ∨ s.port.rx.pcount s.params = s.params.cap) →
        (IsDeq i → s.port.rx.ccount s.params = 0) →
        t.port.rx.contents s.params = s.port.rx.contents s.params)) ∧
    (∀ c, (s.syncStep c).port.tx.contents s.params = s.port.tx.contents s.params ∧
      (s.syncStep c).port.rx.contents s.params = s.port.rx.contents s.params)

/-- From a TX queue its producer sees empty, C ENQs of any policies complete one after another with no dequeue between them, and
the next ENQ.TX.WF holds (40_queue_ops R102). -/
def Obligations.CapacityEnqueuesComplete : Prop :=
  ∀ (s : State) (is : List Instr), (∀ i, i ∈ is → ∃ b, IsEnq i b) → s.port.tx.pcount s.params = 0 →
    (is.length ≤ s.params.cap → ∃ t, execAll is s = .next t ∧ t.port.tx.pcount s.params = is.length ∧
      t.port.hreq = s.port.hreq ∧ (is ≠ [] → t.port.hRsp = some 0x00000000)) ∧
    (is.length = s.params.cap → ∃ t, execAll is s = .next t ∧
      ∀ b, exec (.enqTxWf b) t = .next { t with port := { t.port with hreq := some (.enqTxWf b) } })

/-- The armed-or-pending invariant: with the order of counts (and settled views where SYNC_STAGES = 0), a step keeps it at every
instance where it completes no ENQ, and an ARMTX establishes it whatever was enqueued before; so under R280 every queued byte
has an interrupt armed or an arm pending (70_reset_and_hazards R282, R280). -/
def Obligations.ArmCoverageKept : Prop :=
  (∀ (s t : State) (j : Nat) (o o' : Port), s.CurOk → step s = .next t → s.ports[j]? = some o → t.ports[j]? = some o' →
    o.tx.Ordered s.params → (s.params.sync = .bypassed → o.settled s.params = true) →
    o.ArmCovered s.params → o'.tx.wptr = o.tx.wptr → o'.ArmCovered s.params) ∧
  (∀ s : State, (s.params.sync = .bypassed → s.port.settled s.params = true) →
    ∃ t, exec .armtx s = .next t ∧ t.port.ArmCovered s.params)

/-- An ENQ.TX.WF held while tx_ie = 0 and arm_req = 0: no step but a reset dequeues from TX, and none that leaves it held arms.
Where the queue is full it stays held so under every step but a reset. Whatever the queue's own count, where its producer's view
shows no room it stays held so under every step but a reset and, with two clock domains, SYNC.TXR: with SYNC_STAGES = 0, forever.
A full view that is not stale is a full queue; and a host that keeps R280, so that R282's invariant holds, is not in this state
(70_reset_and_hazards R281, R282, R280). That full means tcount(TX) = C here is the model's reading of R281, log entry 17: with
an old TX.rsync a SYNC.TXR may still bring room. -/
def Obligations.FullAndUnarmedWaitsForever : Prop :=
  (∀ (s t : State) (j : Nat) (o o' : Port) (b : Byte), s.CurOk → step s = .next t → s.draw.event ≠ .reset →
    s.ports[j]? = some o → t.ports[j]? = some o' → o.hreq = some (.enqTxWf b) → o.txIe = false → o.armReq = false →
    o'.tx.rptr = o.tx.rptr ∧ o'.txIe = false ∧ o'.armReq = false ∧
      (o.StuckFull s.params b → o'.StuckFull s.params b)) ∧
  (∀ (s t : State) (j : Nat) (o o' : Port) (b : Byte), s.CurOk → step s = .next t → s.draw.event ≠ .reset →
    (s.params.sync ≠ .bypassed → s.draw.event ≠ .sync j .txr) → s.ports[j]? = some o → t.ports[j]? = some o' →
    o.hreq = some (.enqTxWf b) → o.txIe = false → o.armReq = false → ¬ o.tx.pcount s.params < s.params.cap →
    (s.params.sync = .bypassed → o.tx.rsync = grayOf s.params o.tx.rptr) →
    o'.hreq = some (.enqTxWf b) ∧ o'.txIe = false ∧ o'.armReq = false ∧ ¬ o'.tx.pcount s.params < s.params.cap ∧
      (s.params.sync = .bypassed → o'.tx.rsync = grayOf s.params o'.tx.rptr)) ∧
  (∀ (p : Params) (q : Queue), q.Ordered p → q.rsync = grayOf p q.rptr → ¬ q.pcount p < p.cap → q.tcount p = p.cap) ∧
  (∀ (p : Params) (o : Port) (b : Byte), o.ArmCovered p → ¬ o.StuckFull p b)

/-- An event at one instance leaves every other instance as it was: instances share no state. An API call acts on the instance
that lookup finds for its identifier; where it finds none, every instance stays as it was, its views being settled with
SYNC_STAGES = 0 (10_state R20, 60_exceptions R251, 44_host_sequences R200, 43_sync_steps R181). -/
def Obligations.EventTouchesOneInstance : Prop :=
  ∀ s t : State, s.CurOk → step s = .next t →
    (∀ (k j : Nat) (w : ReqWord) (tmo : Tmo) (c : Crossing), k < s.nports →
      (s.draw.event = .host k w tmo ∨ s.draw.event = .device k w ∨ s.draw.event = .complete k ∨ s.draw.event = .sync k c ∨
        s.draw.event = .timeout k ∨ s.draw.event = .driver k) →
      j ≠ k → t.ports[j]? = s.ports[j]?) ∧
    (∀ (portId : Nat) (call : ApiCall), s.draw.event = .call portId call →
      (∀ k j, lookupPort s.params portId = some k → k < s.nports → j ≠ k → t.ports[j]? = s.ports[j]?) ∧
      ((∀ k, lookupPort s.params portId = some k → ¬ k < s.nports) →
        (s.params.sync = .bypassed → s.port.settled s.params = true) → t.ports = s.ports))

/-! ## Host sequences -/

/-- The guards: an identifier lookup does not find gives NoDevice and changes nothing; write, putchar, read and getchar on a port
not initialized give NotConnected and change nothing; set_autocrlf needs no init (44_host_sequences R200, R203, R204). -/
def Obligations.ApiGuardsIssueNothing : Prop :=
  (∀ (s : State) (portId : Nat) (c : ApiCall), (∀ x, x ∈ s.params.portIds → x ≠ portId) →
    s.apiCall portId c = { s with apiResult := some ⟨portId, .err .noDevice⟩ }) ∧
  (∀ (s : State) (portId i : Nat), lookupPort s.params portId = some i → i < s.nports → (s.select i).hostFree = true →
    (s.select i).port.host.awaiting = false →
    ((s.select i).port.host.initialized = false →
      ∀ c, ((∃ bs, c = .write bs) ∨ (∃ pol bs, c = .writeWith pol bs) ∨ (∃ b, c = .putchar b) ∨
          (∃ n t, c = .read n t) ∨ ∃ t, c = .getchar t) →
        s.apiCall portId c = { s.select i with apiResult := some ⟨portId, .err .notConnected⟩ }) ∧
    (∀ e, s.apiCall portId (.setAutocrlf e) = { s.select i with
      port := { (s.select i).port with host := { (s.select i).port.host with autocrlf := e } },
      apiResult := some ⟨portId, .done⟩ }))

/-- init on a free port issues ARMRX and, once it is answered, marks the port initialized and returns Ok(()); autocrlf and TX are
untouched (44_host_sequences R202; that the call takes two moves of the host agent is log entry 14). -/
def Obligations.InitEnablesReceive : Prop :=
  ∀ (s : State) (baud : Nat), s.hostFree = true →
    ∃ t u, driverStep (s.startCall (.init baud)) = .next t ∧ driverStep t = .next u ∧
      t.port.rxIe = true ∧ t.port.host.initialized = s.port.host.initialized ∧
      u.port.rxIe = true ∧ u.port.host.initialized = true ∧ u.port.host.autocrlf = s.port.host.autocrlf ∧
      u.port.host.seq = none ∧ u.port.tx = s.port.tx ∧
      u.apiResult.map (fun r => r.result) = some .done

/-- While a host sequence runs: with a held request it waits; with nothing awaited it presents the word of its next transaction
on port H; and it goes on with a response only when there is one (44_host_sequences notation, 40_queue_ops R116; the moves of
the host agent are log entry 14). -/
def Obligations.SequencePresentsItsTransactions : Prop :=
  ∀ (s : State) (q : HostSeq), s.port.host.seq = some q →
    (s.port.hreq ≠ none → driverStep s = .next s) ∧
    (s.port.hreq = none → s.port.host.awaiting = false → ∀ i, q.move s.port.host.autocrlf = .issue i →
      driverStep s = tryWord .host i.encode.1 i.encode.2
        { s with reqPort := .host, port := { s.port with
          hRsp := none, host := { s.port.host with awaiting := true } } }) ∧
    (s.port.hreq = none → s.port.host.awaiting = true → s.port.hRsp = none → driverStep s = .next s)

/-- write issues, for each input byte in order, T(b) as ENQ then ARMTX pairs, an autocrlf newline being 0x0D then 0x0A, and, all
answered OK, returns the number of input bytes, not of bytes enqueued (44_host_sequences R205, R216, R217). -/
def Obligations.WriteIssuesPutsInOrder : Prop :=
  ∀ (mode : WriteFailMode) (autocrlf : Bool) (pol : Policy) (bytes : List Byte),
    ∃ moves rs, (∀ r, r ∈ rs → r = (0x00000000 : RspWord)) ∧
      HostSeq.play mode autocrlf moves rs (.write pol bytes 0 .start) =
        (bytes.flatMap (putSequence pol autocrlf), some (.count bytes.length []))

/-- read issues one DEQ of its policy per byte; at the first EMPTY it returns the count read so far, without error, and at
max_len it returns without issuing another (44_host_sequences R209, R211). -/
def Obligations.ReadStopsAtEmptyOrMax : Prop :=
  ∀ (mode : WriteFailMode) (autocrlf : Bool) (pol : Policy) (maxLen : Nat) (bs : List Byte),
    (bs.length < maxLen →
      HostSeq.play mode autocrlf (bs.length + 1) (bs.map (fun b => response .ok b 0) ++ [0x00000002]) (.read pol maxLen []) =
        (List.replicate (bs.length + 1) pol.deq, some (.count bs.length bs))) ∧
    (bs.length = maxLen →
      HostSeq.play mode autocrlf (bs.length + 1) (bs.map (fun b => response .ok b 0)) (.read pol maxLen []) =
        (List.replicate bs.length pol.deq, some (.count bs.length bs)))
end

