-- ==== Sys2Proof/Laws/Memory.lean ====
section
/-! SUPPORT. The storage's laws: a read after a write, and that a write keeps the canonical form and the C slots
(20_memory R50). -/

namespace Sys2Proof.Machine

@[simp] theorem Memory.read_nil (a : Nat) : Memory.read [] a = none := rfl

theorem Memory.read_cons (b : Nat) (v : Byte) (m : Memory) (a : Nat) :
    Memory.read ((b, v) :: m) a = if a = b then some v else Memory.read m a := rfl

/-- A read of the slot just written gives the byte written. -/
@[simp] theorem Memory.read_write_same (m : Memory) (a : Nat) (v : Byte) :
    Memory.read (Memory.write m a v) a = some v := by
  induction m with
  | nil => simp [Memory.write, Memory.read_cons]
  | cons c m ih =>
    obtain ⟨b, u⟩ := c
    rw [Memory.write]
    split_ifs with h1 h2
    · simp [Memory.read_cons]
    · simp [Memory.read_cons]
    · rw [Memory.read_cons, if_neg h2, ih]

/-- A write leaves every other slot as it was. -/
theorem Memory.read_write_ne (m : Memory) (a b : Nat) (v : Byte) (h : b ≠ a) :
    Memory.read (Memory.write m a v) b = Memory.read m b := by
  induction m with
  | nil => simp [Memory.write, Memory.read_cons, h]
  | cons c m ih =>
    obtain ⟨d, u⟩ := c
    rw [Memory.write]
    split_ifs with h1 h2
    · simp [Memory.read_cons, h]
    · subst h2; simp [Memory.read_cons, h]
    · simp only [Memory.read_cons, ih]

theorem Memory.risingFrom_write (m : Memory) (lo a : Nat) (v : Byte) (hm : Memory.risingFrom lo m = true) (h : lo ≤ a) :
    Memory.risingFrom lo (Memory.write m a v) = true := by
  induction m generalizing lo with
  | nil => simp [Memory.write, Memory.risingFrom, h]
  | cons c m ih =>
    obtain ⟨b, u⟩ := c
    simp only [Memory.risingFrom, Bool.and_eq_true, decide_eq_true_eq] at hm
    rw [Memory.write]
    split_ifs with h1 h2
    · simp only [Memory.risingFrom, Bool.and_eq_true, decide_eq_true_eq]
      exact ⟨h, by omega, hm.2⟩
    · subst h2
      simpa [Memory.risingFrom] using hm
    · simp only [Memory.risingFrom, Bool.and_eq_true, decide_eq_true_eq]
      exact ⟨hm.1, ih (b + 1) hm.2 (by omega)⟩

/-- A write keeps the canonical form. -/
theorem Memory.wf_write (m : Memory) (a : Nat) (v : Byte) (h : Memory.wf m = true) :
    Memory.wf (Memory.write m a v) = true :=
  Memory.risingFrom_write m 0 a v h (Nat.zero_le a)

/-- A write into one of the C slots lists no other slot. -/
theorem Memory.within_write (m : Memory) (cap a : Nat) (v : Byte) (h : Memory.within cap m = true) (ha : a < cap) :
    Memory.within cap (Memory.write m a v) = true := by
  induction m with
  | nil => simp [Memory.write, Memory.within, ha]
  | cons c m ih =>
    obtain ⟨b, u⟩ := c
    simp only [Memory.within, List.all_cons, Bool.and_eq_true] at h ih ⊢
    rw [Memory.write]
    split_ifs with h1 h2
    · simp only [List.all_cons, Bool.and_eq_true, decide_eq_true_eq]
      exact ⟨ha, of_decide_eq_true h.1, h.2⟩
    · simp only [List.all_cons, Bool.and_eq_true, decide_eq_true_eq]
      exact ⟨ha, h.2⟩
    · simp only [List.all_cons, Bool.and_eq_true]
      exact ⟨h.1, ih h.2⟩

/-- The storage of a reset queue is canonical. -/
theorem Queue.reset_mem_wf : Memory.wf Queue.reset.mem = true := rfl

/-- Equal canonical storages are equal data: two that read alike at every slot are the same list. -/
theorem Memory.ext_of_risingFrom (m n : Memory) (lo : Nat) (hm : Memory.risingFrom lo m = true)
    (hn : Memory.risingFrom lo n = true) (h : ∀ a, Memory.read m a = Memory.read n a) : m = n := by
  have below : ∀ (k : Memory) (l a : Nat), Memory.risingFrom l k = true → a < l → Memory.read k a = none := by
    intro k
    induction k with
    | nil => intro l a _ _; rfl
    | cons c k ih =>
      obtain ⟨b, u⟩ := c
      intro l a hk ha
      simp only [Memory.risingFrom, Bool.and_eq_true, decide_eq_true_eq] at hk
      rw [Memory.read_cons, if_neg (by omega), ih (b + 1) a hk.2 (by omega)]
  induction m generalizing n lo with
  | nil =>
    cases n with
    | nil => rfl
    | cons c n => obtain ⟨b, u⟩ := c; have := h b; simp [Memory.read_cons] at this
  | cons c m ih =>
    obtain ⟨b, u⟩ := c
    cases n with
    | nil => have := h b; simp [Memory.read_cons] at this
    | cons d n =>
      obtain ⟨e, w⟩ := d
      simp only [Memory.risingFrom, Bool.and_eq_true, decide_eq_true_eq] at hm hn
      have hbe : b = e := by
        rcases Nat.lt_trichotomy b e with hlt | heq | hgt
        · have := h b
          rw [Memory.read_cons, if_pos rfl, Memory.read_cons, if_neg (by omega), below n (e + 1) b hn.2 (by omega)] at this
          simp at this
        · exact heq
        · have := h e
          rw [Memory.read_cons, if_neg (by omega), below m (b + 1) e hm.2 (by omega), Memory.read_cons, if_pos rfl] at this
          simp at this
      subst hbe
      have huw : u = w := by have := h b; simpa [Memory.read_cons] using this
      subst huw
      have htail : ∀ a, Memory.read m a = Memory.read n a := by
        intro a
        by_cases hab : a = b
        · subst hab; rw [below m (a + 1) a hm.2 (by omega), below n (a + 1) a hn.2 (by omega)]
        · have := h a; simpa [Memory.read_cons, hab] using this
      rw [ih n (b + 1) hm.2 hn.2 htail]

end Sys2Proof.Machine
end

