-- ==== Sys2Proof/Laws/Pointers.lean ====
section
/-! SUPPORT. Pointer arithmetic modulo 2C, the gray code and its inverse, and the counts (00_scope R12, 10_state R27). -/

namespace Sys2Proof.Machine

theorem cap_pos (p : Params) : 0 < p.cap := Nat.two_pow_pos _

theorem span_eq (p : Params) : p.span = 2 * p.cap := by
  simp [Params.span, Params.cap, Nat.pow_succ, Nat.mul_comm]

theorem span_le (p : Params) : p.span ≤ 2 ^ 16 :=
  Nat.pow_le_pow_right (by decide) (by have := p.k.isLt; omega)

theorem ptrVal_lt (p : Params) (v : Ptr) : ptrVal p v < p.span := Nat.mod_lt _ (Nat.two_pow_pos _)

theorem ptrOf_toNat (p : Params) (n : Nat) : (ptrOf p n).toNat = n % p.span := by
  have h1 : n % p.span < p.span := Nat.mod_lt _ (Nat.two_pow_pos _)
  have h2 := span_le p
  rw [ptrOf, BitVec.toNat_ofNat, Nat.mod_eq_of_lt (by omega)]

/-- A pointer register gives back the number stored in it, mod 2C. -/
@[simp] theorem ptrVal_ptrOf (p : Params) (n : Nat) : ptrVal p (ptrOf p n) = n % p.span := by
  rw [ptrVal, ptrOf_toNat, Nat.mod_mod]

@[simp] theorem ptrVal_ptrInc (p : Params) (v : Ptr) : ptrVal p (ptrInc p v) = (ptrVal p v + 1) % p.span :=
  ptrVal_ptrOf p _

@[simp] theorem ptrVal_zero (p : Params) : ptrVal p 0 = 0 := by simp [ptrVal]

theorem slotOf_lt (p : Params) (v : Ptr) : slotOf p v < p.cap := Nat.mod_lt _ (cap_pos p)

/-- g2b is the inverse of b2g (00_scope R12). -/
@[simp] theorem g2b_b2g (x : Ptr) : g2b (b2g x) = x := by
  apply BitVec.eq_of_getLsbD_eq
  intro i hi
  simp only [g2b, b2g, List.range, List.range.loop, List.foldl]
  interval_cases i <;> simp

theorem b2g_toNat_lt (n : Nat) (x : Ptr) (h : x.toNat < 2 ^ n) : (b2g x).toNat < 2 ^ n := by
  rw [b2g, BitVec.toNat_xor, BitVec.toNat_ushiftRight]
  exact Nat.xor_lt_two_pow h (lt_of_le_of_lt (Nat.shiftRight_le _ _) h)

theorem g2b_toNat_lt (n : Nat) (g : Ptr) (h : g.toNat < 2 ^ n) : (g2b g).toNat < 2 ^ n := by
  have aux : ∀ (js : List Nat) (acc : Ptr), acc.toNat < 2 ^ n →
      (js.foldl (fun acc j => acc ^^^ (g >>> j)) acc).toNat < 2 ^ n := by
    intro js
    induction js with
    | nil => intro acc ha; exact ha
    | cons j js ih =>
      intro acc ha
      apply ih
      rw [BitVec.toNat_xor, BitVec.toNat_ushiftRight]
      exact Nat.xor_lt_two_pow ha (lt_of_le_of_lt (Nat.shiftRight_le _ _) h)
  exact aux _ 0 (Nat.two_pow_pos n)

theorem viewVal_lt (p : Params) (g : Ptr) : viewVal p g < p.span :=
  g2b_toNat_lt _ _ (by rw [ptrOf_toNat]; exact Nat.mod_lt _ (Nat.two_pow_pos _))

theorem grayOf_toNat_lt (p : Params) (v : Ptr) : (grayOf p v).toNat < p.span :=
  b2g_toNat_lt _ _ (by rw [ptrOf_toNat]; exact Nat.mod_lt _ (Nat.two_pow_pos _))

/-- A view that copies a pointer stands for that pointer's value. -/
@[simp] theorem viewVal_grayOf (p : Params) (v : Ptr) : viewVal p (grayOf p v) = ptrVal p v := by
  have h1 := grayOf_toNat_lt p v
  have h2 : ptrOf p (ptrVal p (grayOf p v)) = grayOf p v := by
    apply BitVec.eq_of_toNat_eq
    rw [ptrOf_toNat, ptrVal, Nat.mod_mod, Nat.mod_eq_of_lt h1]
  rw [viewVal, h2, grayOf, g2b_b2g, ptrOf_toNat, Nat.mod_eq_of_lt (ptrVal_lt p v)]

@[simp] theorem viewVal_zero (p : Params) : viewVal p 0 = 0 := by
  have h := viewVal_grayOf p 0
  have hz : grayOf p 0 = 0 := by
    rw [grayOf, ptrVal_zero, ptrOf, Nat.zero_mod]
    rfl
  rw [hz, ptrVal_zero] at h
  exact h

theorem diff2C_lt (p : Params) (a b : Nat) : diff2C p a b < p.span := Nat.mod_lt _ (Nat.two_pow_pos _)

/-- The difference mod 2C of two register values, as a case distinction linear arithmetic can use. -/
theorem diff2C_eq (p : Params) (a b : Nat) (ha : a < p.span) (hb : b < p.span) :
    diff2C p a b = if b ≤ a then a - b else a + p.span - b := by
  unfold diff2C
  split_ifs with h
  · rw [show a + p.span - b = (a - b) + p.span by omega, Nat.add_mod_right, Nat.mod_eq_of_lt (by omega)]
  · rw [Nat.mod_eq_of_lt (by omega)]

/-- The successor of a register value mod 2C, as a case distinction. -/
theorem succ_mod_span (p : Params) (a : Nat) (ha : a < p.span) :
    (a + 1) % p.span = if a + 1 = p.span then 0 else a + 1 := by
  split_ifs with h
  · rw [h, Nat.mod_self]
  · rw [Nat.mod_eq_of_lt (by omega)]

/-- Advancing the first register adds 1 to a difference that is not yet the largest. -/
theorem diff2C_succ_left (p : Params) (a b : Nat) (ha : a < p.span) (hb : b < p.span) (h : diff2C p a b + 1 < p.span) :
    diff2C p ((a + 1) % p.span) b = diff2C p a b + 1 := by
  have h0 := succ_mod_span p a ha
  have h1 : (a + 1) % p.span < p.span := Nat.mod_lt _ (by omega)
  rw [diff2C_eq p _ _ h1 hb, diff2C_eq p a b ha hb] at *
  rw [h0]
  split_ifs at * <;> omega

/-- Advancing the second register takes 1 from a difference that is not 0. -/
theorem diff2C_succ_right (p : Params) (a b : Nat) (ha : a < p.span) (hb : b < p.span) (h : 0 < diff2C p a b) :
    diff2C p a ((b + 1) % p.span) = diff2C p a b - 1 := by
  have h0 := succ_mod_span p b hb
  have h1 : (b + 1) % p.span < p.span := Nat.mod_lt _ (by omega)
  rw [diff2C_eq p _ _ ha h1, diff2C_eq p a b ha hb] at *
  rw [h0]
  split_ifs at * <;> omega

end Sys2Proof.Machine
end

