-- ==== Sys2Proof/Laws/State.lean ====
section
/-! SUPPORT. One lemma per field per update of the state, so that no proof unfolds a record update. -/

namespace Sys2Proof.Machine

/-! Queue.enqueue -/

@[simp] theorem Queue.enqueue_mem (p : Params) (b : Byte) (q : Queue) : (q.enqueue p b).mem = Memory.write q.mem (slotOf p q.wptr) b := rfl
@[simp] theorem Queue.enqueue_wptr (p : Params) (b : Byte) (q : Queue) : (q.enqueue p b).wptr = ptrInc p q.wptr := rfl
@[simp] theorem Queue.enqueue_rptr (p : Params) (b : Byte) (q : Queue) : (q.enqueue p b).rptr = q.rptr := rfl
@[simp] theorem Queue.enqueue_wsync (p : Params) (b : Byte) (q : Queue) : (q.enqueue p b).wsync = q.wsync := rfl
@[simp] theorem Queue.enqueue_rsync (p : Params) (b : Byte) (q : Queue) : (q.enqueue p b).rsync = q.rsync := rfl

/-! Queue.dequeue -/

@[simp] theorem Queue.dequeue_mem (p : Params) (q : Queue) : (q.dequeue p).mem = q.mem := rfl
@[simp] theorem Queue.dequeue_wptr (p : Params) (q : Queue) : (q.dequeue p).wptr = q.wptr := rfl
@[simp] theorem Queue.dequeue_rptr (p : Params) (q : Queue) : (q.dequeue p).rptr = ptrInc p q.rptr := rfl
@[simp] theorem Queue.dequeue_wsync (p : Params) (q : Queue) : (q.dequeue p).wsync = q.wsync := rfl
@[simp] theorem Queue.dequeue_rsync (p : Params) (q : Queue) : (q.dequeue p).rsync = q.rsync := rfl

/-! Queue.publishW -/

@[simp] theorem Queue.publishW_mem (p : Params) (q : Queue) : (q.publishW p).mem = q.mem := rfl
@[simp] theorem Queue.publishW_wptr (p : Params) (q : Queue) : (q.publishW p).wptr = q.wptr := rfl
@[simp] theorem Queue.publishW_rptr (p : Params) (q : Queue) : (q.publishW p).rptr = q.rptr := rfl
@[simp] theorem Queue.publishW_wsync (p : Params) (q : Queue) : (q.publishW p).wsync = grayOf p q.wptr := rfl
@[simp] theorem Queue.publishW_rsync (p : Params) (q : Queue) : (q.publishW p).rsync = q.rsync := rfl

/-! Queue.publishR -/

@[simp] theorem Queue.publishR_mem (p : Params) (q : Queue) : (q.publishR p).mem = q.mem := rfl
@[simp] theorem Queue.publishR_wptr (p : Params) (q : Queue) : (q.publishR p).wptr = q.wptr := rfl
@[simp] theorem Queue.publishR_rptr (p : Params) (q : Queue) : (q.publishR p).rptr = q.rptr := rfl
@[simp] theorem Queue.publishR_wsync (p : Params) (q : Queue) : (q.publishR p).wsync = q.wsync := rfl
@[simp] theorem Queue.publishR_rsync (p : Params) (q : Queue) : (q.publishR p).rsync = grayOf p q.rptr := rfl

/-! Port.respondHost -/

@[simp] theorem Port.respondHost_tx (st : Status) (d : Byte) (n : Nat) (o : Port) : (o.respondHost st d n).tx = o.tx := rfl
@[simp] theorem Port.respondHost_rx (st : Status) (d : Byte) (n : Nat) (o : Port) : (o.respondHost st d n).rx = o.rx := rfl
@[simp] theorem Port.respondHost_ovf (st : Status) (d : Byte) (n : Nat) (o : Port) : (o.respondHost st d n).ovf = o.ovf := rfl
@[simp] theorem Port.respondHost_ovfH (st : Status) (d : Byte) (n : Nat) (o : Port) : (o.respondHost st d n).ovfH = o.ovfH := rfl
@[simp] theorem Port.respondHost_txIe (st : Status) (d : Byte) (n : Nat) (o : Port) : (o.respondHost st d n).txIe = o.txIe := rfl
@[simp] theorem Port.respondHost_armReq (st : Status) (d : Byte) (n : Nat) (o : Port) : (o.respondHost st d n).armReq = o.armReq := rfl
@[simp] theorem Port.respondHost_rxIe (st : Status) (d : Byte) (n : Nat) (o : Port) : (o.respondHost st d n).rxIe = o.rxIe := rfl
@[simp] theorem Port.respondHost_hreq (st : Status) (d : Byte) (n : Nat) (o : Port) : (o.respondHost st d n).hreq = o.hreq := rfl
@[simp] theorem Port.respondHost_hRsp (st : Status) (d : Byte) (n : Nat) (o : Port) : (o.respondHost st d n).hRsp = some (response st d n) := rfl
@[simp] theorem Port.respondHost_dRsp (st : Status) (d : Byte) (n : Nat) (o : Port) : (o.respondHost st d n).dRsp = o.dRsp := rfl
@[simp] theorem Port.respondHost_txOut (st : Status) (d : Byte) (n : Nat) (o : Port) : (o.respondHost st d n).txOut = o.txOut := rfl
@[simp] theorem Port.respondHost_rxRead (st : Status) (d : Byte) (n : Nat) (o : Port) : (o.respondHost st d n).rxRead = o.rxRead := rfl
@[simp] theorem Port.respondHost_illegalIssued (st : Status) (d : Byte) (n : Nat) (o : Port) : (o.respondHost st d n).illegalIssued = o.illegalIssued := rfl
@[simp] theorem Port.respondHost_host (st : Status) (d : Byte) (n : Nat) (o : Port) : (o.respondHost st d n).host = o.host := rfl

/-! Port.respondDevice -/

@[simp] theorem Port.respondDevice_tx (st : Status) (d : Byte) (n : Nat) (o : Port) : (o.respondDevice st d n).tx = o.tx := rfl
@[simp] theorem Port.respondDevice_rx (st : Status) (d : Byte) (n : Nat) (o : Port) : (o.respondDevice st d n).rx = o.rx := rfl
@[simp] theorem Port.respondDevice_ovf (st : Status) (d : Byte) (n : Nat) (o : Port) : (o.respondDevice st d n).ovf = o.ovf := rfl
@[simp] theorem Port.respondDevice_ovfH (st : Status) (d : Byte) (n : Nat) (o : Port) : (o.respondDevice st d n).ovfH = o.ovfH := rfl
@[simp] theorem Port.respondDevice_txIe (st : Status) (d : Byte) (n : Nat) (o : Port) : (o.respondDevice st d n).txIe = o.txIe := rfl
@[simp] theorem Port.respondDevice_armReq (st : Status) (d : Byte) (n : Nat) (o : Port) : (o.respondDevice st d n).armReq = o.armReq := rfl
@[simp] theorem Port.respondDevice_rxIe (st : Status) (d : Byte) (n : Nat) (o : Port) : (o.respondDevice st d n).rxIe = o.rxIe := rfl
@[simp] theorem Port.respondDevice_hreq (st : Status) (d : Byte) (n : Nat) (o : Port) : (o.respondDevice st d n).hreq = o.hreq := rfl
@[simp] theorem Port.respondDevice_hRsp (st : Status) (d : Byte) (n : Nat) (o : Port) : (o.respondDevice st d n).hRsp = o.hRsp := rfl
@[simp] theorem Port.respondDevice_dRsp (st : Status) (d : Byte) (n : Nat) (o : Port) : (o.respondDevice st d n).dRsp = some (response st d n) := rfl
@[simp] theorem Port.respondDevice_txOut (st : Status) (d : Byte) (n : Nat) (o : Port) : (o.respondDevice st d n).txOut = o.txOut := rfl
@[simp] theorem Port.respondDevice_rxRead (st : Status) (d : Byte) (n : Nat) (o : Port) : (o.respondDevice st d n).rxRead = o.rxRead := rfl
@[simp] theorem Port.respondDevice_illegalIssued (st : Status) (d : Byte) (n : Nat) (o : Port) : (o.respondDevice st d n).illegalIssued = o.illegalIssued := rfl
@[simp] theorem Port.respondDevice_host (st : Status) (d : Byte) (n : Nat) (o : Port) : (o.respondDevice st d n).host = o.host := rfl

/-! Port.hold -/

@[simp] theorem Port.hold_tx (i : Instr) (o : Port) : (o.hold i).tx = o.tx := rfl
@[simp] theorem Port.hold_rx (i : Instr) (o : Port) : (o.hold i).rx = o.rx := rfl
@[simp] theorem Port.hold_ovf (i : Instr) (o : Port) : (o.hold i).ovf = o.ovf := rfl
@[simp] theorem Port.hold_ovfH (i : Instr) (o : Port) : (o.hold i).ovfH = o.ovfH := rfl
@[simp] theorem Port.hold_txIe (i : Instr) (o : Port) : (o.hold i).txIe = o.txIe := rfl
@[simp] theorem Port.hold_armReq (i : Instr) (o : Port) : (o.hold i).armReq = o.armReq := rfl
@[simp] theorem Port.hold_rxIe (i : Instr) (o : Port) : (o.hold i).rxIe = o.rxIe := rfl
@[simp] theorem Port.hold_hreq (i : Instr) (o : Port) : (o.hold i).hreq = some i := rfl
@[simp] theorem Port.hold_hRsp (i : Instr) (o : Port) : (o.hold i).hRsp = o.hRsp := rfl
@[simp] theorem Port.hold_dRsp (i : Instr) (o : Port) : (o.hold i).dRsp = o.dRsp := rfl
@[simp] theorem Port.hold_txOut (i : Instr) (o : Port) : (o.hold i).txOut = o.txOut := rfl
@[simp] theorem Port.hold_rxRead (i : Instr) (o : Port) : (o.hold i).rxRead = o.rxRead := rfl
@[simp] theorem Port.hold_illegalIssued (i : Instr) (o : Port) : (o.hold i).illegalIssued = o.illegalIssued := rfl
@[simp] theorem Port.hold_host (i : Instr) (o : Port) : (o.hold i).host = o.host := rfl

/-! Port.pushTx -/

@[simp] theorem Port.pushTx_tx (p : Params) (b : Byte) (o : Port) : (o.pushTx p b).tx = o.tx.enqueue p b := rfl
@[simp] theorem Port.pushTx_rx (p : Params) (b : Byte) (o : Port) : (o.pushTx p b).rx = o.rx := rfl
@[simp] theorem Port.pushTx_ovf (p : Params) (b : Byte) (o : Port) : (o.pushTx p b).ovf = o.ovf := rfl
@[simp] theorem Port.pushTx_ovfH (p : Params) (b : Byte) (o : Port) : (o.pushTx p b).ovfH = o.ovfH := rfl
@[simp] theorem Port.pushTx_txIe (p : Params) (b : Byte) (o : Port) : (o.pushTx p b).txIe = o.txIe := rfl
@[simp] theorem Port.pushTx_armReq (p : Params) (b : Byte) (o : Port) : (o.pushTx p b).armReq = o.armReq := rfl
@[simp] theorem Port.pushTx_rxIe (p : Params) (b : Byte) (o : Port) : (o.pushTx p b).rxIe = o.rxIe := rfl
@[simp] theorem Port.pushTx_hreq (p : Params) (b : Byte) (o : Port) : (o.pushTx p b).hreq = o.hreq := rfl
@[simp] theorem Port.pushTx_hRsp (p : Params) (b : Byte) (o : Port) : (o.pushTx p b).hRsp = o.hRsp := rfl
@[simp] theorem Port.pushTx_dRsp (p : Params) (b : Byte) (o : Port) : (o.pushTx p b).dRsp = o.dRsp := rfl
@[simp] theorem Port.pushTx_txOut (p : Params) (b : Byte) (o : Port) : (o.pushTx p b).txOut = o.txOut := rfl
@[simp] theorem Port.pushTx_rxRead (p : Params) (b : Byte) (o : Port) : (o.pushTx p b).rxRead = o.rxRead := rfl
@[simp] theorem Port.pushTx_illegalIssued (p : Params) (b : Byte) (o : Port) : (o.pushTx p b).illegalIssued = o.illegalIssued := rfl
@[simp] theorem Port.pushTx_host (p : Params) (b : Byte) (o : Port) : (o.pushTx p b).host = o.host := rfl

/-! Port.pushRx -/

@[simp] theorem Port.pushRx_tx (p : Params) (b : Byte) (o : Port) : (o.pushRx p b).tx = o.tx := rfl
@[simp] theorem Port.pushRx_rx (p : Params) (b : Byte) (o : Port) : (o.pushRx p b).rx = o.rx.enqueue p b := rfl
@[simp] theorem Port.pushRx_ovf (p : Params) (b : Byte) (o : Port) : (o.pushRx p b).ovf = o.ovf := rfl
@[simp] theorem Port.pushRx_ovfH (p : Params) (b : Byte) (o : Port) : (o.pushRx p b).ovfH = o.ovfH := rfl
@[simp] theorem Port.pushRx_txIe (p : Params) (b : Byte) (o : Port) : (o.pushRx p b).txIe = o.txIe := rfl
@[simp] theorem Port.pushRx_armReq (p : Params) (b : Byte) (o : Port) : (o.pushRx p b).armReq = o.armReq := rfl
@[simp] theorem Port.pushRx_rxIe (p : Params) (b : Byte) (o : Port) : (o.pushRx p b).rxIe = o.rxIe := rfl
@[simp] theorem Port.pushRx_hreq (p : Params) (b : Byte) (o : Port) : (o.pushRx p b).hreq = o.hreq := rfl
@[simp] theorem Port.pushRx_hRsp (p : Params) (b : Byte) (o : Port) : (o.pushRx p b).hRsp = o.hRsp := rfl
@[simp] theorem Port.pushRx_dRsp (p : Params) (b : Byte) (o : Port) : (o.pushRx p b).dRsp = o.dRsp := rfl
@[simp] theorem Port.pushRx_txOut (p : Params) (b : Byte) (o : Port) : (o.pushRx p b).txOut = o.txOut := rfl
@[simp] theorem Port.pushRx_rxRead (p : Params) (b : Byte) (o : Port) : (o.pushRx p b).rxRead = o.rxRead := rfl
@[simp] theorem Port.pushRx_illegalIssued (p : Params) (b : Byte) (o : Port) : (o.pushRx p b).illegalIssued = o.illegalIssued := rfl
@[simp] theorem Port.pushRx_host (p : Params) (b : Byte) (o : Port) : (o.pushRx p b).host = o.host := rfl

/-! Port.readByte -/

@[simp] theorem Port.readByte_tx (b : Byte) (o : Port) : (o.readByte b).tx = o.tx := rfl
@[simp] theorem Port.readByte_rx (b : Byte) (o : Port) : (o.readByte b).rx = o.rx := rfl
@[simp] theorem Port.readByte_ovf (b : Byte) (o : Port) : (o.readByte b).ovf = o.ovf := rfl
@[simp] theorem Port.readByte_ovfH (b : Byte) (o : Port) : (o.readByte b).ovfH = o.ovfH := rfl
@[simp] theorem Port.readByte_txIe (b : Byte) (o : Port) : (o.readByte b).txIe = o.txIe := rfl
@[simp] theorem Port.readByte_armReq (b : Byte) (o : Port) : (o.readByte b).armReq = o.armReq := rfl
@[simp] theorem Port.readByte_rxIe (b : Byte) (o : Port) : (o.readByte b).rxIe = o.rxIe := rfl
@[simp] theorem Port.readByte_hreq (b : Byte) (o : Port) : (o.readByte b).hreq = o.hreq := rfl
@[simp] theorem Port.readByte_hRsp (b : Byte) (o : Port) : (o.readByte b).hRsp = o.hRsp := rfl
@[simp] theorem Port.readByte_dRsp (b : Byte) (o : Port) : (o.readByte b).dRsp = o.dRsp := rfl
@[simp] theorem Port.readByte_txOut (b : Byte) (o : Port) : (o.readByte b).txOut = o.txOut := rfl
@[simp] theorem Port.readByte_rxRead (b : Byte) (o : Port) : (o.readByte b).rxRead = o.rxRead ++ [b] := rfl
@[simp] theorem Port.readByte_illegalIssued (b : Byte) (o : Port) : (o.readByte b).illegalIssued = o.illegalIssued := rfl
@[simp] theorem Port.readByte_host (b : Byte) (o : Port) : (o.readByte b).host = o.host := rfl

/-! Port.popTx -/

@[simp] theorem Port.popTx_tx (p : Params) (b : Byte) (o : Port) : (o.popTx p b).tx = o.tx.dequeue p := rfl
@[simp] theorem Port.popTx_rx (p : Params) (b : Byte) (o : Port) : (o.popTx p b).rx = o.rx := rfl
@[simp] theorem Port.popTx_ovf (p : Params) (b : Byte) (o : Port) : (o.popTx p b).ovf = o.ovf := rfl
@[simp] theorem Port.popTx_ovfH (p : Params) (b : Byte) (o : Port) : (o.popTx p b).ovfH = o.ovfH := rfl
@[simp] theorem Port.popTx_txIe (p : Params) (b : Byte) (o : Port) : (o.popTx p b).txIe = o.txIe := rfl
@[simp] theorem Port.popTx_armReq (p : Params) (b : Byte) (o : Port) : (o.popTx p b).armReq = o.armReq := rfl
@[simp] theorem Port.popTx_rxIe (p : Params) (b : Byte) (o : Port) : (o.popTx p b).rxIe = o.rxIe := rfl
@[simp] theorem Port.popTx_hreq (p : Params) (b : Byte) (o : Port) : (o.popTx p b).hreq = o.hreq := rfl
@[simp] theorem Port.popTx_hRsp (p : Params) (b : Byte) (o : Port) : (o.popTx p b).hRsp = o.hRsp := rfl
@[simp] theorem Port.popTx_dRsp (p : Params) (b : Byte) (o : Port) : (o.popTx p b).dRsp = o.dRsp := rfl
@[simp] theorem Port.popTx_txOut (p : Params) (b : Byte) (o : Port) : (o.popTx p b).txOut = o.txOut ++ [b] := rfl
@[simp] theorem Port.popTx_rxRead (p : Params) (b : Byte) (o : Port) : (o.popTx p b).rxRead = o.rxRead := rfl
@[simp] theorem Port.popTx_illegalIssued (p : Params) (b : Byte) (o : Port) : (o.popTx p b).illegalIssued = o.illegalIssued := rfl
@[simp] theorem Port.popTx_host (p : Params) (b : Byte) (o : Port) : (o.popTx p b).host = o.host := rfl

/-! Port.popRx -/

@[simp] theorem Port.popRx_tx (p : Params) (o : Port) : (o.popRx p).tx = o.tx := rfl
@[simp] theorem Port.popRx_rx (p : Params) (o : Port) : (o.popRx p).rx = o.rx.dequeue p := rfl
@[simp] theorem Port.popRx_ovf (p : Params) (o : Port) : (o.popRx p).ovf = o.ovf := rfl
@[simp] theorem Port.popRx_ovfH (p : Params) (o : Port) : (o.popRx p).ovfH = o.ovfH := rfl
@[simp] theorem Port.popRx_txIe (p : Params) (o : Port) : (o.popRx p).txIe = o.txIe := rfl
@[simp] theorem Port.popRx_armReq (p : Params) (o : Port) : (o.popRx p).armReq = o.armReq := rfl
@[simp] theorem Port.popRx_rxIe (p : Params) (o : Port) : (o.popRx p).rxIe = o.rxIe := rfl
@[simp] theorem Port.popRx_hreq (p : Params) (o : Port) : (o.popRx p).hreq = o.hreq := rfl
@[simp] theorem Port.popRx_hRsp (p : Params) (o : Port) : (o.popRx p).hRsp = o.hRsp := rfl
@[simp] theorem Port.popRx_dRsp (p : Params) (o : Port) : (o.popRx p).dRsp = o.dRsp := rfl
@[simp] theorem Port.popRx_txOut (p : Params) (o : Port) : (o.popRx p).txOut = o.txOut := rfl
@[simp] theorem Port.popRx_rxRead (p : Params) (o : Port) : (o.popRx p).rxRead = o.rxRead := rfl
@[simp] theorem Port.popRx_illegalIssued (p : Params) (o : Port) : (o.popRx p).illegalIssued = o.illegalIssued := rfl
@[simp] theorem Port.popRx_host (p : Params) (o : Port) : (o.popRx p).host = o.host := rfl

/-! Port.disarm -/

@[simp] theorem Port.disarm_tx (o : Port) : o.disarm.tx = o.tx := rfl
@[simp] theorem Port.disarm_rx (o : Port) : o.disarm.rx = o.rx := rfl
@[simp] theorem Port.disarm_ovf (o : Port) : o.disarm.ovf = o.ovf := rfl
@[simp] theorem Port.disarm_ovfH (o : Port) : o.disarm.ovfH = o.ovfH := rfl
@[simp] theorem Port.disarm_txIe (o : Port) : o.disarm.txIe = txIeNext false true o.txIe := rfl
@[simp] theorem Port.disarm_armReq (o : Port) : o.disarm.armReq = o.armReq := rfl
@[simp] theorem Port.disarm_rxIe (o : Port) : o.disarm.rxIe = o.rxIe := rfl
@[simp] theorem Port.disarm_hreq (o : Port) : o.disarm.hreq = o.hreq := rfl
@[simp] theorem Port.disarm_hRsp (o : Port) : o.disarm.hRsp = o.hRsp := rfl
@[simp] theorem Port.disarm_dRsp (o : Port) : o.disarm.dRsp = o.dRsp := rfl
@[simp] theorem Port.disarm_txOut (o : Port) : o.disarm.txOut = o.txOut := rfl
@[simp] theorem Port.disarm_rxRead (o : Port) : o.disarm.rxRead = o.rxRead := rfl
@[simp] theorem Port.disarm_illegalIssued (o : Port) : o.disarm.illegalIssued = o.illegalIssued := rfl
@[simp] theorem Port.disarm_host (o : Port) : o.disarm.host = o.host := rfl

/-! Port.enableRx -/

@[simp] theorem Port.enableRx_tx (o : Port) : o.enableRx.tx = o.tx := rfl
@[simp] theorem Port.enableRx_rx (o : Port) : o.enableRx.rx = o.rx := rfl
@[simp] theorem Port.enableRx_ovf (o : Port) : o.enableRx.ovf = o.ovf := rfl
@[simp] theorem Port.enableRx_ovfH (o : Port) : o.enableRx.ovfH = o.ovfH := rfl
@[simp] theorem Port.enableRx_txIe (o : Port) : o.enableRx.txIe = o.txIe := rfl
@[simp] theorem Port.enableRx_armReq (o : Port) : o.enableRx.armReq = o.armReq := rfl
@[simp] theorem Port.enableRx_rxIe (o : Port) : o.enableRx.rxIe = true := rfl
@[simp] theorem Port.enableRx_hreq (o : Port) : o.enableRx.hreq = o.hreq := rfl
@[simp] theorem Port.enableRx_hRsp (o : Port) : o.enableRx.hRsp = o.hRsp := rfl
@[simp] theorem Port.enableRx_dRsp (o : Port) : o.enableRx.dRsp = o.dRsp := rfl
@[simp] theorem Port.enableRx_txOut (o : Port) : o.enableRx.txOut = o.txOut := rfl
@[simp] theorem Port.enableRx_rxRead (o : Port) : o.enableRx.rxRead = o.rxRead := rfl
@[simp] theorem Port.enableRx_illegalIssued (o : Port) : o.enableRx.illegalIssued = o.illegalIssued := rfl
@[simp] theorem Port.enableRx_host (o : Port) : o.enableRx.host = o.host := rfl

/-! Port.setOvf -/

@[simp] theorem Port.setOvf_tx (o : Port) : o.setOvf.tx = o.tx := rfl
@[simp] theorem Port.setOvf_rx (o : Port) : o.setOvf.rx = o.rx := rfl
@[simp] theorem Port.setOvf_ovf (o : Port) : o.setOvf.ovf = true := rfl
@[simp] theorem Port.setOvf_ovfH (o : Port) : o.setOvf.ovfH = o.ovfH := rfl
@[simp] theorem Port.setOvf_txIe (o : Port) : o.setOvf.txIe = o.txIe := rfl
@[simp] theorem Port.setOvf_armReq (o : Port) : o.setOvf.armReq = o.armReq := rfl
@[simp] theorem Port.setOvf_rxIe (o : Port) : o.setOvf.rxIe = o.rxIe := rfl
@[simp] theorem Port.setOvf_hreq (o : Port) : o.setOvf.hreq = o.hreq := rfl
@[simp] theorem Port.setOvf_hRsp (o : Port) : o.setOvf.hRsp = o.hRsp := rfl
@[simp] theorem Port.setOvf_dRsp (o : Port) : o.setOvf.dRsp = o.dRsp := rfl
@[simp] theorem Port.setOvf_txOut (o : Port) : o.setOvf.txOut = o.txOut := rfl
@[simp] theorem Port.setOvf_rxRead (o : Port) : o.setOvf.rxRead = o.rxRead := rfl
@[simp] theorem Port.setOvf_illegalIssued (o : Port) : o.setOvf.illegalIssued = o.illegalIssued := rfl
@[simp] theorem Port.setOvf_host (o : Port) : o.setOvf.host = o.host := rfl

/-! Port.clearOvf -/

@[simp] theorem Port.clearOvf_tx (o : Port) : o.clearOvf.tx = o.tx := rfl
@[simp] theorem Port.clearOvf_rx (o : Port) : o.clearOvf.rx = o.rx := rfl
@[simp] theorem Port.clearOvf_ovf (o : Port) : o.clearOvf.ovf = false := rfl
@[simp] theorem Port.clearOvf_ovfH (o : Port) : o.clearOvf.ovfH = false := rfl
@[simp] theorem Port.clearOvf_txIe (o : Port) : o.clearOvf.txIe = o.txIe := rfl
@[simp] theorem Port.clearOvf_armReq (o : Port) : o.clearOvf.armReq = o.armReq := rfl
@[simp] theorem Port.clearOvf_rxIe (o : Port) : o.clearOvf.rxIe = o.rxIe := rfl
@[simp] theorem Port.clearOvf_hreq (o : Port) : o.clearOvf.hreq = o.hreq := rfl
@[simp] theorem Port.clearOvf_hRsp (o : Port) : o.clearOvf.hRsp = o.hRsp := rfl
@[simp] theorem Port.clearOvf_dRsp (o : Port) : o.clearOvf.dRsp = o.dRsp := rfl
@[simp] theorem Port.clearOvf_txOut (o : Port) : o.clearOvf.txOut = o.txOut := rfl
@[simp] theorem Port.clearOvf_rxRead (o : Port) : o.clearOvf.rxRead = o.rxRead := rfl
@[simp] theorem Port.clearOvf_illegalIssued (o : Port) : o.clearOvf.illegalIssued = o.illegalIssued := rfl
@[simp] theorem Port.clearOvf_host (o : Port) : o.clearOvf.host = o.host := rfl

/-! Port.syncTxw -/

@[simp] theorem Port.syncTxw_tx (p : Params) (o : Port) : (o.syncTxw p).tx = o.tx.publishW p := rfl
@[simp] theorem Port.syncTxw_rx (p : Params) (o : Port) : (o.syncTxw p).rx = o.rx := rfl
@[simp] theorem Port.syncTxw_ovf (p : Params) (o : Port) : (o.syncTxw p).ovf = o.ovf := rfl
@[simp] theorem Port.syncTxw_ovfH (p : Params) (o : Port) : (o.syncTxw p).ovfH = o.ovfH := rfl
@[simp] theorem Port.syncTxw_txIe (p : Params) (o : Port) : (o.syncTxw p).txIe = txIeNext o.armReq false o.txIe := rfl
@[simp] theorem Port.syncTxw_armReq (p : Params) (o : Port) : (o.syncTxw p).armReq = false := rfl
@[simp] theorem Port.syncTxw_rxIe (p : Params) (o : Port) : (o.syncTxw p).rxIe = o.rxIe := rfl
@[simp] theorem Port.syncTxw_hreq (p : Params) (o : Port) : (o.syncTxw p).hreq = o.hreq := rfl
@[simp] theorem Port.syncTxw_hRsp (p : Params) (o : Port) : (o.syncTxw p).hRsp = o.hRsp := rfl
@[simp] theorem Port.syncTxw_dRsp (p : Params) (o : Port) : (o.syncTxw p).dRsp = o.dRsp := rfl
@[simp] theorem Port.syncTxw_txOut (p : Params) (o : Port) : (o.syncTxw p).txOut = o.txOut := rfl
@[simp] theorem Port.syncTxw_rxRead (p : Params) (o : Port) : (o.syncTxw p).rxRead = o.rxRead := rfl
@[simp] theorem Port.syncTxw_illegalIssued (p : Params) (o : Port) : (o.syncTxw p).illegalIssued = o.illegalIssued := rfl
@[simp] theorem Port.syncTxw_host (p : Params) (o : Port) : (o.syncTxw p).host = o.host := rfl

/-! Port.syncTxr -/

@[simp] theorem Port.syncTxr_tx (p : Params) (o : Port) : (o.syncTxr p).tx = o.tx.publishR p := rfl
@[simp] theorem Port.syncTxr_rx (p : Params) (o : Port) : (o.syncTxr p).rx = o.rx := rfl
@[simp] theorem Port.syncTxr_ovf (p : Params) (o : Port) : (o.syncTxr p).ovf = o.ovf := rfl
@[simp] theorem Port.syncTxr_ovfH (p : Params) (o : Port) : (o.syncTxr p).ovfH = o.ovfH := rfl
@[simp] theorem Port.syncTxr_txIe (p : Params) (o : Port) : (o.syncTxr p).txIe = o.txIe := rfl
@[simp] theorem Port.syncTxr_armReq (p : Params) (o : Port) : (o.syncTxr p).armReq = o.armReq := rfl
@[simp] theorem Port.syncTxr_rxIe (p : Params) (o : Port) : (o.syncTxr p).rxIe = o.rxIe := rfl
@[simp] theorem Port.syncTxr_hreq (p : Params) (o : Port) : (o.syncTxr p).hreq = o.hreq := rfl
@[simp] theorem Port.syncTxr_hRsp (p : Params) (o : Port) : (o.syncTxr p).hRsp = o.hRsp := rfl
@[simp] theorem Port.syncTxr_dRsp (p : Params) (o : Port) : (o.syncTxr p).dRsp = o.dRsp := rfl
@[simp] theorem Port.syncTxr_txOut (p : Params) (o : Port) : (o.syncTxr p).txOut = o.txOut := rfl
@[simp] theorem Port.syncTxr_rxRead (p : Params) (o : Port) : (o.syncTxr p).rxRead = o.rxRead := rfl
@[simp] theorem Port.syncTxr_illegalIssued (p : Params) (o : Port) : (o.syncTxr p).illegalIssued = o.illegalIssued := rfl
@[simp] theorem Port.syncTxr_host (p : Params) (o : Port) : (o.syncTxr p).host = o.host := rfl

/-! Port.syncRxw -/

@[simp] theorem Port.syncRxw_tx (p : Params) (o : Port) : (o.syncRxw p).tx = o.tx := rfl
@[simp] theorem Port.syncRxw_rx (p : Params) (o : Port) : (o.syncRxw p).rx = o.rx.publishW p := rfl
@[simp] theorem Port.syncRxw_ovf (p : Params) (o : Port) : (o.syncRxw p).ovf = o.ovf := rfl
@[simp] theorem Port.syncRxw_ovfH (p : Params) (o : Port) : (o.syncRxw p).ovfH = o.ovfH := rfl
@[simp] theorem Port.syncRxw_txIe (p : Params) (o : Port) : (o.syncRxw p).txIe = o.txIe := rfl
@[simp] theorem Port.syncRxw_armReq (p : Params) (o : Port) : (o.syncRxw p).armReq = o.armReq := rfl
@[simp] theorem Port.syncRxw_rxIe (p : Params) (o : Port) : (o.syncRxw p).rxIe = o.rxIe := rfl
@[simp] theorem Port.syncRxw_hreq (p : Params) (o : Port) : (o.syncRxw p).hreq = o.hreq := rfl
@[simp] theorem Port.syncRxw_hRsp (p : Params) (o : Port) : (o.syncRxw p).hRsp = o.hRsp := rfl
@[simp] theorem Port.syncRxw_dRsp (p : Params) (o : Port) : (o.syncRxw p).dRsp = o.dRsp := rfl
@[simp] theorem Port.syncRxw_txOut (p : Params) (o : Port) : (o.syncRxw p).txOut = o.txOut := rfl
@[simp] theorem Port.syncRxw_rxRead (p : Params) (o : Port) : (o.syncRxw p).rxRead = o.rxRead := rfl
@[simp] theorem Port.syncRxw_illegalIssued (p : Params) (o : Port) : (o.syncRxw p).illegalIssued = o.illegalIssued := rfl
@[simp] theorem Port.syncRxw_host (p : Params) (o : Port) : (o.syncRxw p).host = o.host := rfl

/-! Port.syncRxr -/

@[simp] theorem Port.syncRxr_tx (p : Params) (o : Port) : (o.syncRxr p).tx = o.tx := rfl
@[simp] theorem Port.syncRxr_rx (p : Params) (o : Port) : (o.syncRxr p).rx = o.rx.publishR p := rfl
@[simp] theorem Port.syncRxr_ovf (p : Params) (o : Port) : (o.syncRxr p).ovf = o.ovf := rfl
@[simp] theorem Port.syncRxr_ovfH (p : Params) (o : Port) : (o.syncRxr p).ovfH = o.ovfH := rfl
@[simp] theorem Port.syncRxr_txIe (p : Params) (o : Port) : (o.syncRxr p).txIe = o.txIe := rfl
@[simp] theorem Port.syncRxr_armReq (p : Params) (o : Port) : (o.syncRxr p).armReq = o.armReq := rfl
@[simp] theorem Port.syncRxr_rxIe (p : Params) (o : Port) : (o.syncRxr p).rxIe = o.rxIe := rfl
@[simp] theorem Port.syncRxr_hreq (p : Params) (o : Port) : (o.syncRxr p).hreq = o.hreq := rfl
@[simp] theorem Port.syncRxr_hRsp (p : Params) (o : Port) : (o.syncRxr p).hRsp = o.hRsp := rfl
@[simp] theorem Port.syncRxr_dRsp (p : Params) (o : Port) : (o.syncRxr p).dRsp = o.dRsp := rfl
@[simp] theorem Port.syncRxr_txOut (p : Params) (o : Port) : (o.syncRxr p).txOut = o.txOut := rfl
@[simp] theorem Port.syncRxr_rxRead (p : Params) (o : Port) : (o.syncRxr p).rxRead = o.rxRead := rfl
@[simp] theorem Port.syncRxr_illegalIssued (p : Params) (o : Port) : (o.syncRxr p).illegalIssued = o.illegalIssued := rfl
@[simp] theorem Port.syncRxr_host (p : Params) (o : Port) : (o.syncRxr p).host = o.host := rfl

/-! Port.syncOvf -/

@[simp] theorem Port.syncOvf_tx (o : Port) : o.syncOvf.tx = o.tx := rfl
@[simp] theorem Port.syncOvf_rx (o : Port) : o.syncOvf.rx = o.rx := rfl
@[simp] theorem Port.syncOvf_ovf (o : Port) : o.syncOvf.ovf = o.ovf := rfl
@[simp] theorem Port.syncOvf_ovfH (o : Port) : o.syncOvf.ovfH = o.ovf := rfl
@[simp] theorem Port.syncOvf_txIe (o : Port) : o.syncOvf.txIe = o.txIe := rfl
@[simp] theorem Port.syncOvf_armReq (o : Port) : o.syncOvf.armReq = o.armReq := rfl
@[simp] theorem Port.syncOvf_rxIe (o : Port) : o.syncOvf.rxIe = o.rxIe := rfl
@[simp] theorem Port.syncOvf_hreq (o : Port) : o.syncOvf.hreq = o.hreq := rfl
@[simp] theorem Port.syncOvf_hRsp (o : Port) : o.syncOvf.hRsp = o.hRsp := rfl
@[simp] theorem Port.syncOvf_dRsp (o : Port) : o.syncOvf.dRsp = o.dRsp := rfl
@[simp] theorem Port.syncOvf_txOut (o : Port) : o.syncOvf.txOut = o.txOut := rfl
@[simp] theorem Port.syncOvf_rxRead (o : Port) : o.syncOvf.rxRead = o.rxRead := rfl
@[simp] theorem Port.syncOvf_illegalIssued (o : Port) : o.syncOvf.illegalIssued = o.illegalIssued := rfl
@[simp] theorem Port.syncOvf_host (o : Port) : o.syncOvf.host = o.host := rfl

/-! Port.settle -/

@[simp] theorem Port.settle_tx (p : Params) (o : Port) : (o.settle p).tx = (o.tx.publishW p).publishR p := rfl
@[simp] theorem Port.settle_rx (p : Params) (o : Port) : (o.settle p).rx = (o.rx.publishW p).publishR p := rfl
@[simp] theorem Port.settle_ovf (p : Params) (o : Port) : (o.settle p).ovf = o.ovf := rfl
@[simp] theorem Port.settle_ovfH (p : Params) (o : Port) : (o.settle p).ovfH = o.ovf := rfl
@[simp] theorem Port.settle_txIe (p : Params) (o : Port) : (o.settle p).txIe = o.txIe := rfl
@[simp] theorem Port.settle_armReq (p : Params) (o : Port) : (o.settle p).armReq = o.armReq := rfl
@[simp] theorem Port.settle_rxIe (p : Params) (o : Port) : (o.settle p).rxIe = o.rxIe := rfl
@[simp] theorem Port.settle_hreq (p : Params) (o : Port) : (o.settle p).hreq = o.hreq := rfl
@[simp] theorem Port.settle_hRsp (p : Params) (o : Port) : (o.settle p).hRsp = o.hRsp := rfl
@[simp] theorem Port.settle_dRsp (p : Params) (o : Port) : (o.settle p).dRsp = o.dRsp := rfl
@[simp] theorem Port.settle_txOut (p : Params) (o : Port) : (o.settle p).txOut = o.txOut := rfl
@[simp] theorem Port.settle_rxRead (p : Params) (o : Port) : (o.settle p).rxRead = o.rxRead := rfl
@[simp] theorem Port.settle_illegalIssued (p : Params) (o : Port) : (o.settle p).illegalIssued = o.illegalIssued := rfl
@[simp] theorem Port.settle_host (p : Params) (o : Port) : (o.settle p).host = o.host := rfl

/-! Port.endHeld -/

@[simp] theorem Port.endHeld_tx (st : Status) (o : Port) : (o.endHeld st).tx = o.tx := rfl
@[simp] theorem Port.endHeld_rx (st : Status) (o : Port) : (o.endHeld st).rx = o.rx := rfl
@[simp] theorem Port.endHeld_ovf (st : Status) (o : Port) : (o.endHeld st).ovf = o.ovf := rfl
@[simp] theorem Port.endHeld_ovfH (st : Status) (o : Port) : (o.endHeld st).ovfH = o.ovfH := rfl
@[simp] theorem Port.endHeld_txIe (st : Status) (o : Port) : (o.endHeld st).txIe = o.txIe := rfl
@[simp] theorem Port.endHeld_armReq (st : Status) (o : Port) : (o.endHeld st).armReq = o.armReq := rfl
@[simp] theorem Port.endHeld_rxIe (st : Status) (o : Port) : (o.endHeld st).rxIe = o.rxIe := rfl
@[simp] theorem Port.endHeld_hreq (st : Status) (o : Port) : (o.endHeld st).hreq = none := rfl
@[simp] theorem Port.endHeld_hRsp (st : Status) (o : Port) : (o.endHeld st).hRsp = some (response st 0 0) := rfl
@[simp] theorem Port.endHeld_dRsp (st : Status) (o : Port) : (o.endHeld st).dRsp = o.dRsp := rfl
@[simp] theorem Port.endHeld_txOut (st : Status) (o : Port) : (o.endHeld st).txOut = o.txOut := rfl
@[simp] theorem Port.endHeld_rxRead (st : Status) (o : Port) : (o.endHeld st).rxRead = o.rxRead := rfl
@[simp] theorem Port.endHeld_illegalIssued (st : Status) (o : Port) : (o.endHeld st).illegalIssued = o.illegalIssued := rfl
@[simp] theorem Port.endHeld_host (st : Status) (o : Port) : (o.endHeld st).host = o.host := rfl

/-! Port.powerOn -/

@[simp] theorem Port.powerOn_tx (o : Port) : o.powerOn.tx = Queue.reset := rfl
@[simp] theorem Port.powerOn_rx (o : Port) : o.powerOn.rx = Queue.reset := rfl
@[simp] theorem Port.powerOn_ovf (o : Port) : o.powerOn.ovf = false := rfl
@[simp] theorem Port.powerOn_ovfH (o : Port) : o.powerOn.ovfH = false := rfl
@[simp] theorem Port.powerOn_txIe (o : Port) : o.powerOn.txIe = false := rfl
@[simp] theorem Port.powerOn_armReq (o : Port) : o.powerOn.armReq = false := rfl
@[simp] theorem Port.powerOn_rxIe (o : Port) : o.powerOn.rxIe = false := rfl
@[simp] theorem Port.powerOn_hreq (o : Port) : o.powerOn.hreq = none := rfl
@[simp] theorem Port.powerOn_hRsp (o : Port) : o.powerOn.hRsp = none := rfl
@[simp] theorem Port.powerOn_dRsp (o : Port) : o.powerOn.dRsp = none := rfl
@[simp] theorem Port.powerOn_txOut (o : Port) : o.powerOn.txOut = [] := rfl
@[simp] theorem Port.powerOn_rxRead (o : Port) : o.powerOn.rxRead = [] := rfl
@[simp] theorem Port.powerOn_illegalIssued (o : Port) : o.powerOn.illegalIssued = o.illegalIssued := rfl
@[simp] theorem Port.powerOn_host (o : Port) : o.powerOn.host = HostRecord.reset := rfl

/-! Port.arm, by the number of clock domains -/

@[simp] theorem Port.arm_tx (p : Params) (o : Port) : (o.arm p).tx = o.tx := by unfold Port.arm; split <;> rfl
@[simp] theorem Port.arm_rx (p : Params) (o : Port) : (o.arm p).rx = o.rx := by unfold Port.arm; split <;> rfl
@[simp] theorem Port.arm_ovf (p : Params) (o : Port) : (o.arm p).ovf = o.ovf := by unfold Port.arm; split <;> rfl
@[simp] theorem Port.arm_ovfH (p : Params) (o : Port) : (o.arm p).ovfH = o.ovfH := by unfold Port.arm; split <;> rfl
@[simp] theorem Port.arm_rxIe (p : Params) (o : Port) : (o.arm p).rxIe = o.rxIe := by unfold Port.arm; split <;> rfl
@[simp] theorem Port.arm_hreq (p : Params) (o : Port) : (o.arm p).hreq = o.hreq := by unfold Port.arm; split <;> rfl
@[simp] theorem Port.arm_hRsp (p : Params) (o : Port) : (o.arm p).hRsp = o.hRsp := by unfold Port.arm; split <;> rfl
@[simp] theorem Port.arm_dRsp (p : Params) (o : Port) : (o.arm p).dRsp = o.dRsp := by unfold Port.arm; split <;> rfl
@[simp] theorem Port.arm_txOut (p : Params) (o : Port) : (o.arm p).txOut = o.txOut := by unfold Port.arm; split <;> rfl
@[simp] theorem Port.arm_rxRead (p : Params) (o : Port) : (o.arm p).rxRead = o.rxRead := by unfold Port.arm; split <;> rfl
@[simp] theorem Port.arm_illegalIssued (p : Params) (o : Port) : (o.arm p).illegalIssued = o.illegalIssued := by unfold Port.arm; split <;> rfl
@[simp] theorem Port.arm_host (p : Params) (o : Port) : (o.arm p).host = o.host := by unfold Port.arm; split <;> rfl

theorem Port.arm_txIe (p : Params) (o : Port) : (o.arm p).txIe = (p.sync.isBypassed || o.txIe) := by
  unfold Port.arm; split <;> simp_all [txIeNext]

theorem Port.arm_armReq (p : Params) (o : Port) : (o.arm p).armReq = (!p.sync.isBypassed || o.armReq) := by
  unfold Port.arm; split <;> simp_all

/-! Port.respondOn and Port.answerIllegal, by the request port -/

@[simp] theorem Port.respondOn_tx (r : ReqPort) (st : Status) (d : Byte) (n : Nat) (o : Port) : (o.respondOn r st d n).tx = o.tx := by cases r <;> rfl
@[simp] theorem Port.respondOn_rx (r : ReqPort) (st : Status) (d : Byte) (n : Nat) (o : Port) : (o.respondOn r st d n).rx = o.rx := by cases r <;> rfl
@[simp] theorem Port.respondOn_ovf (r : ReqPort) (st : Status) (d : Byte) (n : Nat) (o : Port) : (o.respondOn r st d n).ovf = o.ovf := by cases r <;> rfl
@[simp] theorem Port.respondOn_ovfH (r : ReqPort) (st : Status) (d : Byte) (n : Nat) (o : Port) : (o.respondOn r st d n).ovfH = o.ovfH := by cases r <;> rfl
@[simp] theorem Port.respondOn_txIe (r : ReqPort) (st : Status) (d : Byte) (n : Nat) (o : Port) : (o.respondOn r st d n).txIe = o.txIe := by cases r <;> rfl
@[simp] theorem Port.respondOn_armReq (r : ReqPort) (st : Status) (d : Byte) (n : Nat) (o : Port) : (o.respondOn r st d n).armReq = o.armReq := by cases r <;> rfl
@[simp] theorem Port.respondOn_rxIe (r : ReqPort) (st : Status) (d : Byte) (n : Nat) (o : Port) : (o.respondOn r st d n).rxIe = o.rxIe := by cases r <;> rfl
@[simp] theorem Port.respondOn_hreq (r : ReqPort) (st : Status) (d : Byte) (n : Nat) (o : Port) : (o.respondOn r st d n).hreq = o.hreq := by cases r <;> rfl
@[simp] theorem Port.respondOn_txOut (r : ReqPort) (st : Status) (d : Byte) (n : Nat) (o : Port) : (o.respondOn r st d n).txOut = o.txOut := by cases r <;> rfl
@[simp] theorem Port.respondOn_rxRead (r : ReqPort) (st : Status) (d : Byte) (n : Nat) (o : Port) : (o.respondOn r st d n).rxRead = o.rxRead := by cases r <;> rfl
@[simp] theorem Port.respondOn_illegalIssued (r : ReqPort) (st : Status) (d : Byte) (n : Nat) (o : Port) : (o.respondOn r st d n).illegalIssued = o.illegalIssued := by cases r <;> rfl
@[simp] theorem Port.respondOn_host (r : ReqPort) (st : Status) (d : Byte) (n : Nat) (o : Port) : (o.respondOn r st d n).host = o.host := by cases r <;> rfl

@[simp] theorem Port.answerIllegal_tx (r : ReqPort) (o : Port) : (o.answerIllegal r).tx = o.tx := by cases r <;> rfl
@[simp] theorem Port.answerIllegal_rx (r : ReqPort) (o : Port) : (o.answerIllegal r).rx = o.rx := by cases r <;> rfl
@[simp] theorem Port.answerIllegal_ovf (r : ReqPort) (o : Port) : (o.answerIllegal r).ovf = o.ovf := by cases r <;> rfl
@[simp] theorem Port.answerIllegal_ovfH (r : ReqPort) (o : Port) : (o.answerIllegal r).ovfH = o.ovfH := by cases r <;> rfl
@[simp] theorem Port.answerIllegal_txIe (r : ReqPort) (o : Port) : (o.answerIllegal r).txIe = o.txIe := by cases r <;> rfl
@[simp] theorem Port.answerIllegal_armReq (r : ReqPort) (o : Port) : (o.answerIllegal r).armReq = o.armReq := by cases r <;> rfl
@[simp] theorem Port.answerIllegal_rxIe (r : ReqPort) (o : Port) : (o.answerIllegal r).rxIe = o.rxIe := by cases r <;> rfl
@[simp] theorem Port.answerIllegal_hreq (r : ReqPort) (o : Port) : (o.answerIllegal r).hreq = o.hreq := by cases r <;> rfl
@[simp] theorem Port.answerIllegal_txOut (r : ReqPort) (o : Port) : (o.answerIllegal r).txOut = o.txOut := by cases r <;> rfl
@[simp] theorem Port.answerIllegal_rxRead (r : ReqPort) (o : Port) : (o.answerIllegal r).rxRead = o.rxRead := by cases r <;> rfl
@[simp] theorem Port.answerIllegal_illegalIssued (r : ReqPort) (o : Port) : (o.answerIllegal r).illegalIssued = true := by cases r <;> rfl
@[simp] theorem Port.answerIllegal_host (r : ReqPort) (o : Port) : (o.answerIllegal r).host = o.host := by cases r <;> rfl

/-! State.modPort -/

@[simp] theorem State.modPort_params (f : Port → Port) (s : State) : (s.modPort f).params = s.params := rfl
@[simp] theorem State.modPort_port (f : Port → Port) (s : State) : (s.modPort f).port = f s.port := rfl
@[simp] theorem State.modPort_cur (f : Port → Port) (s : State) : (s.modPort f).cur = s.cur := rfl
@[simp] theorem State.modPort_others (f : Port → Port) (s : State) : (s.modPort f).others = s.others := rfl
@[simp] theorem State.modPort_reqPort (f : Port → Port) (s : State) : (s.modPort f).reqPort = s.reqPort := rfl
@[simp] theorem State.modPort_inputs (f : Port → Port) (s : State) : (s.modPort f).inputs = s.inputs := rfl
@[simp] theorem State.modPort_inbox (f : Port → Port) (s : State) : (s.modPort f).inbox = s.inbox := rfl
@[simp] theorem State.modPort_tick (f : Port → Port) (s : State) : (s.modPort f).tick = s.tick := rfl
@[simp] theorem State.modPort_epoch (f : Port → Port) (s : State) : (s.modPort f).epoch = s.epoch := rfl
@[simp] theorem State.modPort_apiResult (f : Port → Port) (s : State) : (s.modPort f).apiResult = s.apiResult := rfl

/-! State.modHost -/

@[simp] theorem State.modHost_params (f : HostRecord → HostRecord) (s : State) : (s.modHost f).params = s.params := rfl
@[simp] theorem State.modHost_port (f : HostRecord → HostRecord) (s : State) : (s.modHost f).port = { s.port with host := f s.port.host } := rfl
@[simp] theorem State.modHost_cur (f : HostRecord → HostRecord) (s : State) : (s.modHost f).cur = s.cur := rfl
@[simp] theorem State.modHost_others (f : HostRecord → HostRecord) (s : State) : (s.modHost f).others = s.others := rfl
@[simp] theorem State.modHost_reqPort (f : HostRecord → HostRecord) (s : State) : (s.modHost f).reqPort = s.reqPort := rfl
@[simp] theorem State.modHost_inputs (f : HostRecord → HostRecord) (s : State) : (s.modHost f).inputs = s.inputs := rfl
@[simp] theorem State.modHost_inbox (f : HostRecord → HostRecord) (s : State) : (s.modHost f).inbox = s.inbox := rfl
@[simp] theorem State.modHost_tick (f : HostRecord → HostRecord) (s : State) : (s.modHost f).tick = s.tick := rfl
@[simp] theorem State.modHost_epoch (f : HostRecord → HostRecord) (s : State) : (s.modHost f).epoch = s.epoch := rfl
@[simp] theorem State.modHost_apiResult (f : HostRecord → HostRecord) (s : State) : (s.modHost f).apiResult = s.apiResult := rfl

/-! State.taken -/

@[simp] theorem State.taken_params (s : State) : s.taken.params = s.params := rfl
@[simp] theorem State.taken_port (s : State) : s.taken.port = s.port := rfl
@[simp] theorem State.taken_cur (s : State) : s.taken.cur = s.cur := rfl
@[simp] theorem State.taken_others (s : State) : s.taken.others = s.others := rfl
@[simp] theorem State.taken_reqPort (s : State) : s.taken.reqPort = s.reqPort := rfl
@[simp] theorem State.taken_inputs (s : State) : s.taken.inputs = s.draw.inputs := rfl
@[simp] theorem State.taken_inbox (s : State) : s.taken.inbox = s.inbox.tail := rfl
@[simp] theorem State.taken_tick (s : State) : s.taken.tick = s.tick + 1 := rfl
@[simp] theorem State.taken_epoch (s : State) : s.taken.epoch = s.epoch := rfl
@[simp] theorem State.taken_apiResult (s : State) : s.taken.apiResult = s.apiResult := rfl

/-! State.powerOn -/

@[simp] theorem State.powerOn_params (s : State) : s.powerOn.params = s.params := rfl
@[simp] theorem State.powerOn_port (s : State) : s.powerOn.port = s.port.powerOn := rfl
@[simp] theorem State.powerOn_cur (s : State) : s.powerOn.cur = s.cur := rfl
@[simp] theorem State.powerOn_others (s : State) : s.powerOn.others = s.others.map Port.powerOn := rfl
@[simp] theorem State.powerOn_reqPort (s : State) : s.powerOn.reqPort = s.reqPort := rfl
@[simp] theorem State.powerOn_inputs (s : State) : s.powerOn.inputs = s.inputs := rfl
@[simp] theorem State.powerOn_inbox (s : State) : s.powerOn.inbox = s.inbox := rfl
@[simp] theorem State.powerOn_tick (s : State) : s.powerOn.tick = s.tick := rfl
@[simp] theorem State.powerOn_epoch (s : State) : s.powerOn.epoch = s.epoch + 1 := rfl
@[simp] theorem State.powerOn_apiResult (s : State) : s.powerOn.apiResult = none := rfl

/-! State.enqDone -/

@[simp] theorem State.enqDone_params (b : Byte) (s : State) : (s.enqDone b).params = s.params := rfl
@[simp] theorem State.enqDone_port (b : Byte) (s : State) : (s.enqDone b).port = (s.port.pushTx s.params b).respondHost .ok 0 0 := rfl
@[simp] theorem State.enqDone_cur (b : Byte) (s : State) : (s.enqDone b).cur = s.cur := rfl
@[simp] theorem State.enqDone_others (b : Byte) (s : State) : (s.enqDone b).others = s.others := rfl
@[simp] theorem State.enqDone_reqPort (b : Byte) (s : State) : (s.enqDone b).reqPort = s.reqPort := rfl
@[simp] theorem State.enqDone_inputs (b : Byte) (s : State) : (s.enqDone b).inputs = s.inputs := rfl
@[simp] theorem State.enqDone_inbox (b : Byte) (s : State) : (s.enqDone b).inbox = s.inbox := rfl
@[simp] theorem State.enqDone_tick (b : Byte) (s : State) : (s.enqDone b).tick = s.tick := rfl
@[simp] theorem State.enqDone_epoch (b : Byte) (s : State) : (s.enqDone b).epoch = s.epoch := rfl
@[simp] theorem State.enqDone_apiResult (b : Byte) (s : State) : (s.enqDone b).apiResult = s.apiResult := rfl

/-! State.deqDone -/

@[simp] theorem State.deqDone_params (s : State) : s.deqDone.params = s.params := rfl
@[simp] theorem State.deqDone_port (s : State) : s.deqDone.port = (s.port.popRx s.params).respondHost .ok s.rxHead 0 := rfl
@[simp] theorem State.deqDone_cur (s : State) : s.deqDone.cur = s.cur := rfl
@[simp] theorem State.deqDone_others (s : State) : s.deqDone.others = s.others := rfl
@[simp] theorem State.deqDone_reqPort (s : State) : s.deqDone.reqPort = s.reqPort := rfl
@[simp] theorem State.deqDone_inputs (s : State) : s.deqDone.inputs = s.inputs := rfl
@[simp] theorem State.deqDone_inbox (s : State) : s.deqDone.inbox = s.inbox := rfl
@[simp] theorem State.deqDone_tick (s : State) : s.deqDone.tick = s.tick := rfl
@[simp] theorem State.deqDone_epoch (s : State) : s.deqDone.epoch = s.epoch := rfl
@[simp] theorem State.deqDone_apiResult (s : State) : s.deqDone.apiResult = s.apiResult := rfl

/-! State.txsvcSend -/

@[simp] theorem State.txsvcSend_params (s : State) : s.txsvcSend.params = s.params := rfl
@[simp] theorem State.txsvcSend_port (s : State) : s.txsvcSend.port = (s.port.popTx s.params s.txHead).respondDevice .ok s.txHead 0 := rfl
@[simp] theorem State.txsvcSend_cur (s : State) : s.txsvcSend.cur = s.cur := rfl
@[simp] theorem State.txsvcSend_others (s : State) : s.txsvcSend.others = s.others := rfl
@[simp] theorem State.txsvcSend_reqPort (s : State) : s.txsvcSend.reqPort = s.reqPort := rfl
@[simp] theorem State.txsvcSend_inputs (s : State) : s.txsvcSend.inputs = s.inputs := rfl
@[simp] theorem State.txsvcSend_inbox (s : State) : s.txsvcSend.inbox = s.inbox := rfl
@[simp] theorem State.txsvcSend_tick (s : State) : s.txsvcSend.tick = s.tick := rfl
@[simp] theorem State.txsvcSend_epoch (s : State) : s.txsvcSend.epoch = s.epoch := rfl
@[simp] theorem State.txsvcSend_apiResult (s : State) : s.txsvcSend.apiResult = s.apiResult := rfl

/-! State.txsvcIdle -/

@[simp] theorem State.txsvcIdle_params (s : State) : s.txsvcIdle.params = s.params := rfl
@[simp] theorem State.txsvcIdle_port (s : State) : s.txsvcIdle.port = s.port.disarm.respondDevice .idle 0 0 := rfl
@[simp] theorem State.txsvcIdle_cur (s : State) : s.txsvcIdle.cur = s.cur := rfl
@[simp] theorem State.txsvcIdle_others (s : State) : s.txsvcIdle.others = s.others := rfl
@[simp] theorem State.txsvcIdle_reqPort (s : State) : s.txsvcIdle.reqPort = s.reqPort := rfl
@[simp] theorem State.txsvcIdle_inputs (s : State) : s.txsvcIdle.inputs = s.inputs := rfl
@[simp] theorem State.txsvcIdle_inbox (s : State) : s.txsvcIdle.inbox = s.inbox := rfl
@[simp] theorem State.txsvcIdle_tick (s : State) : s.txsvcIdle.tick = s.tick := rfl
@[simp] theorem State.txsvcIdle_epoch (s : State) : s.txsvcIdle.epoch = s.epoch := rfl
@[simp] theorem State.txsvcIdle_apiResult (s : State) : s.txsvcIdle.apiResult = s.apiResult := rfl

/-! State.rxsvcStore -/

@[simp] theorem State.rxsvcStore_params (b : Byte) (s : State) : (s.rxsvcStore b).params = s.params := rfl
@[simp] theorem State.rxsvcStore_port (b : Byte) (s : State) : (s.rxsvcStore b).port = ((s.port.readByte b).pushRx s.params b).respondDevice .ok 0 0 := rfl
@[simp] theorem State.rxsvcStore_cur (b : Byte) (s : State) : (s.rxsvcStore b).cur = s.cur := rfl
@[simp] theorem State.rxsvcStore_others (b : Byte) (s : State) : (s.rxsvcStore b).others = s.others := rfl
@[simp] theorem State.rxsvcStore_reqPort (b : Byte) (s : State) : (s.rxsvcStore b).reqPort = s.reqPort := rfl
@[simp] theorem State.rxsvcStore_inputs (b : Byte) (s : State) : (s.rxsvcStore b).inputs = s.inputs := rfl
@[simp] theorem State.rxsvcStore_inbox (b : Byte) (s : State) : (s.rxsvcStore b).inbox = s.inbox := rfl
@[simp] theorem State.rxsvcStore_tick (b : Byte) (s : State) : (s.rxsvcStore b).tick = s.tick := rfl
@[simp] theorem State.rxsvcStore_epoch (b : Byte) (s : State) : (s.rxsvcStore b).epoch = s.epoch := rfl
@[simp] theorem State.rxsvcStore_apiResult (b : Byte) (s : State) : (s.rxsvcStore b).apiResult = s.apiResult := rfl

/-! State.rxsvcDrop -/

@[simp] theorem State.rxsvcDrop_params (b : Byte) (s : State) : (s.rxsvcDrop b).params = s.params := rfl
@[simp] theorem State.rxsvcDrop_port (b : Byte) (s : State) : (s.rxsvcDrop b).port = (s.port.readByte b).setOvf.respondDevice .dropped 0 0 := rfl
@[simp] theorem State.rxsvcDrop_cur (b : Byte) (s : State) : (s.rxsvcDrop b).cur = s.cur := rfl
@[simp] theorem State.rxsvcDrop_others (b : Byte) (s : State) : (s.rxsvcDrop b).others = s.others := rfl
@[simp] theorem State.rxsvcDrop_reqPort (b : Byte) (s : State) : (s.rxsvcDrop b).reqPort = s.reqPort := rfl
@[simp] theorem State.rxsvcDrop_inputs (b : Byte) (s : State) : (s.rxsvcDrop b).inputs = s.inputs := rfl
@[simp] theorem State.rxsvcDrop_inbox (b : Byte) (s : State) : (s.rxsvcDrop b).inbox = s.inbox := rfl
@[simp] theorem State.rxsvcDrop_tick (b : Byte) (s : State) : (s.rxsvcDrop b).tick = s.tick := rfl
@[simp] theorem State.rxsvcDrop_epoch (b : Byte) (s : State) : (s.rxsvcDrop b).epoch = s.epoch := rfl
@[simp] theorem State.rxsvcDrop_apiResult (b : Byte) (s : State) : (s.rxsvcDrop b).apiResult = s.apiResult := rfl

/-! State.seqGoto -/

@[simp] theorem State.seqGoto_params (q : HostSeq) (s : State) : (s.seqGoto q).params = s.params := rfl
@[simp] theorem State.seqGoto_port (q : HostSeq) (s : State) : (s.seqGoto q).port = { s.port with host := { s.port.host with seq := some q, awaiting := false } } := rfl
@[simp] theorem State.seqGoto_cur (q : HostSeq) (s : State) : (s.seqGoto q).cur = s.cur := rfl
@[simp] theorem State.seqGoto_others (q : HostSeq) (s : State) : (s.seqGoto q).others = s.others := rfl
@[simp] theorem State.seqGoto_reqPort (q : HostSeq) (s : State) : (s.seqGoto q).reqPort = s.reqPort := rfl
@[simp] theorem State.seqGoto_inputs (q : HostSeq) (s : State) : (s.seqGoto q).inputs = s.inputs := rfl
@[simp] theorem State.seqGoto_inbox (q : HostSeq) (s : State) : (s.seqGoto q).inbox = s.inbox := rfl
@[simp] theorem State.seqGoto_tick (q : HostSeq) (s : State) : (s.seqGoto q).tick = s.tick := rfl
@[simp] theorem State.seqGoto_epoch (q : HostSeq) (s : State) : (s.seqGoto q).epoch = s.epoch := rfl
@[simp] theorem State.seqGoto_apiResult (q : HostSeq) (s : State) : (s.seqGoto q).apiResult = s.apiResult := rfl

/-! State.apiReturn -/

@[simp] theorem State.apiReturn_params (r : ApiResult) (s : State) : (s.apiReturn r).params = s.params := rfl
@[simp] theorem State.apiReturn_port (r : ApiResult) (s : State) : (s.apiReturn r).port = { s.port with host := { s.port.host with seq := none, awaiting := false } } := rfl
@[simp] theorem State.apiReturn_cur (r : ApiResult) (s : State) : (s.apiReturn r).cur = s.cur := rfl
@[simp] theorem State.apiReturn_others (r : ApiResult) (s : State) : (s.apiReturn r).others = s.others := rfl
@[simp] theorem State.apiReturn_reqPort (r : ApiResult) (s : State) : (s.apiReturn r).reqPort = s.reqPort := rfl
@[simp] theorem State.apiReturn_inputs (r : ApiResult) (s : State) : (s.apiReturn r).inputs = s.inputs := rfl
@[simp] theorem State.apiReturn_inbox (r : ApiResult) (s : State) : (s.apiReturn r).inbox = s.inbox := rfl
@[simp] theorem State.apiReturn_tick (r : ApiResult) (s : State) : (s.apiReturn r).tick = s.tick := rfl
@[simp] theorem State.apiReturn_epoch (r : ApiResult) (s : State) : (s.apiReturn r).epoch = s.epoch := rfl
@[simp] theorem State.apiReturn_apiResult (r : ApiResult) (s : State) : (s.apiReturn r).apiResult = some { portId := s.params.portIds.getD s.cur 0, result := r } := rfl

/-! State.settle and State.syncStep, by the number of clock domains -/

@[simp] theorem State.settle_params (s : State) : s.settle.params = s.params := by unfold State.settle; split <;> rfl
@[simp] theorem State.settle_cur (s : State) : s.settle.cur = s.cur := by unfold State.settle; split <;> rfl
@[simp] theorem State.settle_others (s : State) : s.settle.others = s.others := by unfold State.settle; split <;> rfl
@[simp] theorem State.settle_reqPort (s : State) : s.settle.reqPort = s.reqPort := by unfold State.settle; split <;> rfl
@[simp] theorem State.settle_inputs (s : State) : s.settle.inputs = s.inputs := by unfold State.settle; split <;> rfl
@[simp] theorem State.settle_inbox (s : State) : s.settle.inbox = s.inbox := by unfold State.settle; split <;> rfl
@[simp] theorem State.settle_tick (s : State) : s.settle.tick = s.tick := by unfold State.settle; split <;> rfl
@[simp] theorem State.settle_epoch (s : State) : s.settle.epoch = s.epoch := by unfold State.settle; split <;> rfl
@[simp] theorem State.settle_apiResult (s : State) : s.settle.apiResult = s.apiResult := by unfold State.settle; split <;> rfl

@[simp] theorem State.syncStep_params (c : Crossing) (s : State) : (s.syncStep c).params = s.params := by unfold State.syncStep; split <;> rfl
@[simp] theorem State.syncStep_cur (c : Crossing) (s : State) : (s.syncStep c).cur = s.cur := by unfold State.syncStep; split <;> rfl
@[simp] theorem State.syncStep_others (c : Crossing) (s : State) : (s.syncStep c).others = s.others := by unfold State.syncStep; split <;> rfl
@[simp] theorem State.syncStep_reqPort (c : Crossing) (s : State) : (s.syncStep c).reqPort = s.reqPort := by unfold State.syncStep; split <;> rfl
@[simp] theorem State.syncStep_inputs (c : Crossing) (s : State) : (s.syncStep c).inputs = s.inputs := by unfold State.syncStep; split <;> rfl
@[simp] theorem State.syncStep_inbox (c : Crossing) (s : State) : (s.syncStep c).inbox = s.inbox := by unfold State.syncStep; split <;> rfl
@[simp] theorem State.syncStep_tick (c : Crossing) (s : State) : (s.syncStep c).tick = s.tick := by unfold State.syncStep; split <;> rfl
@[simp] theorem State.syncStep_epoch (c : Crossing) (s : State) : (s.syncStep c).epoch = s.epoch := by unfold State.syncStep; split <;> rfl
@[simp] theorem State.syncStep_apiResult (c : Crossing) (s : State) : (s.syncStep c).apiResult = s.apiResult := by unfold State.syncStep; split <;> rfl

theorem State.settle_port (s : State) :
    s.settle.port = if s.params.sync.isBypassed then s.port.settle s.params else s.port := by
  unfold State.settle; split <;> rfl

theorem State.syncStep_port (c : Crossing) (s : State) :
    (s.syncStep c).port = if s.params.sync.isBypassed then s.port else s.port.cross s.params c := by
  unfold State.syncStep; split <;> rfl

/-! State.accept, by the request port -/

@[simp] theorem State.accept_params (r : ReqPort) (s : State) : (s.accept r).params = s.params := by cases r <;> rfl
@[simp] theorem State.accept_cur (r : ReqPort) (s : State) : (s.accept r).cur = s.cur := by cases r <;> rfl
@[simp] theorem State.accept_others (r : ReqPort) (s : State) : (s.accept r).others = s.others := by cases r <;> rfl
@[simp] theorem State.accept_inputs (r : ReqPort) (s : State) : (s.accept r).inputs = s.inputs := by cases r <;> rfl
@[simp] theorem State.accept_inbox (r : ReqPort) (s : State) : (s.accept r).inbox = s.inbox := by cases r <;> rfl
@[simp] theorem State.accept_tick (r : ReqPort) (s : State) : (s.accept r).tick = s.tick := by cases r <;> rfl
@[simp] theorem State.accept_epoch (r : ReqPort) (s : State) : (s.accept r).epoch = s.epoch := by cases r <;> rfl
@[simp] theorem State.accept_apiResult (r : ReqPort) (s : State) : (s.accept r).apiResult = s.apiResult := by cases r <;> rfl
@[simp] theorem State.accept_reqPort (r : ReqPort) (s : State) : (s.accept r).reqPort = r := by cases r <;> rfl

@[simp] theorem State.accept_port_tx (r : ReqPort) (s : State) : (s.accept r).port.tx = s.port.tx := by cases r <;> rfl
@[simp] theorem State.accept_port_rx (r : ReqPort) (s : State) : (s.accept r).port.rx = s.port.rx := by cases r <;> rfl
@[simp] theorem State.accept_port_ovf (r : ReqPort) (s : State) : (s.accept r).port.ovf = s.port.ovf := by cases r <;> rfl
@[simp] theorem State.accept_port_ovfH (r : ReqPort) (s : State) : (s.accept r).port.ovfH = s.port.ovfH := by cases r <;> rfl
@[simp] theorem State.accept_port_txIe (r : ReqPort) (s : State) : (s.accept r).port.txIe = s.port.txIe := by cases r <;> rfl
@[simp] theorem State.accept_port_armReq (r : ReqPort) (s : State) : (s.accept r).port.armReq = s.port.armReq := by cases r <;> rfl
@[simp] theorem State.accept_port_rxIe (r : ReqPort) (s : State) : (s.accept r).port.rxIe = s.port.rxIe := by cases r <;> rfl
@[simp] theorem State.accept_port_hreq (r : ReqPort) (s : State) : (s.accept r).port.hreq = s.port.hreq := by cases r <;> rfl
@[simp] theorem State.accept_port_dRsp (r : ReqPort) (s : State) : (s.accept r).port.dRsp = s.port.dRsp := by cases r <;> rfl
@[simp] theorem State.accept_port_txOut (r : ReqPort) (s : State) : (s.accept r).port.txOut = s.port.txOut := by cases r <;> rfl
@[simp] theorem State.accept_port_rxRead (r : ReqPort) (s : State) : (s.accept r).port.rxRead = s.port.rxRead := by cases r <;> rfl
@[simp] theorem State.accept_port_illegalIssued (r : ReqPort) (s : State) : (s.accept r).port.illegalIssued = s.port.illegalIssued := by cases r <;> rfl
@[simp] theorem State.accept_port_host (r : ReqPort) (s : State) : (s.accept r).port.host = s.port.host := by cases r <;> rfl

end Sys2Proof.Machine
end

