-- ==== Sys2Proof/Laws/Ops.lean ====
section
/-! SUPPORT. For each shared operation, what it can do, said once: the instances and their selection, the queue transactions,
exec, the request ports and the step. -/

namespace Sys2Proof.Machine

/-! The instances -/

theorem State.length_ports (s : State) : s.ports.length = s.nports := by
  simp only [State.ports, State.nports, List.length_append, List.length_cons, List.length_take, List.length_drop]
  omega

theorem State.mem_ports (s : State) (o : Port) : o ∈ s.ports ↔ o = s.port ∨ o ∈ s.others := by
  have h : o ∈ s.others ↔ o ∈ s.others.take s.cur ∨ o ∈ s.others.drop s.cur := by
    rw [← List.mem_append, List.take_append_drop]
  simp only [State.ports, List.mem_append, List.mem_cons, h]
  tauto

theorem State.port_mem_ports (s : State) : s.port ∈ s.ports := (s.mem_ports s.port).2 (Or.inl rfl)

/-- Selecting an instance moves no instance. -/
@[simp] theorem State.select_ports (i : Nat) (s : State) : (s.select i).ports = s.ports := by
  unfold State.select
  split
  · rename_i o ho
    have hi : i < s.ports.length := (List.getElem?_eq_some_iff.1 ho).1
    have hlen : (s.ports.take i).length = i := by simp; omega
    generalize hl : s.ports = l at *
    simp only [State.ports]
    rw [List.eraseIdx_eq_take_drop_succ, List.take_append_of_le_length (by omega), List.take_of_length_le (by omega),
      List.drop_append_of_le_length (by omega), List.drop_eq_nil_of_le (by omega), List.nil_append]
    have ho' : l[i] = o := (List.getElem?_eq_some_iff.1 ho).2
    rw [← ho', ← List.drop_eq_getElem_cons hi, List.take_append_drop]
  · rfl

@[simp] theorem State.select_nports (i : Nat) (s : State) : (s.select i).nports = s.nports := by
  rw [← State.length_ports, State.select_ports, State.length_ports]

@[simp] theorem State.select_params (i : Nat) (s : State) : (s.select i).params = s.params := by
  unfold State.select; split <;> rfl
@[simp] theorem State.select_inputs (i : Nat) (s : State) : (s.select i).inputs = s.inputs := by
  unfold State.select; split <;> rfl
@[simp] theorem State.select_inbox (i : Nat) (s : State) : (s.select i).inbox = s.inbox := by
  unfold State.select; split <;> rfl
@[simp] theorem State.select_tick (i : Nat) (s : State) : (s.select i).tick = s.tick := by
  unfold State.select; split <;> rfl
@[simp] theorem State.select_epoch (i : Nat) (s : State) : (s.select i).epoch = s.epoch := by
  unfold State.select; split <;> rfl
@[simp] theorem State.select_reqPort (i : Nat) (s : State) : (s.select i).reqPort = s.reqPort := by
  unfold State.select; split <;> rfl
@[simp] theorem State.select_apiResult (i : Nat) (s : State) : (s.select i).apiResult = s.apiResult := by
  unfold State.select; split <;> rfl

/-- Selecting an instance that exists puts it at hand. -/
theorem State.select_spec (i : Nat) (s : State) (h : i < s.nports) :
    s.ports[i]? = some (s.select i).port ∧ (s.select i).cur = i := by
  have hi : i < s.ports.length := by rw [State.length_ports]; exact h
  unfold State.select
  rw [List.getElem?_eq_getElem hi]
  exact ⟨rfl, rfl⟩

theorem State.select_curOk (i : Nat) (s : State) (h : s.CurOk) : (s.select i).CurOk := by
  unfold State.CurOk
  rw [State.select_nports]
  by_cases hi : i < s.nports
  · rw [(s.select_spec i hi).2]; exact hi
  · have hn : s.ports[i]? = none := by
      rw [List.getElem?_eq_none_iff, State.length_ports]; omega
    unfold State.select
    rw [hn]
    exact h

theorem State.ports_cur (s : State) (h : s.CurOk) : s.ports[s.cur]? = some s.port := by
  have hc : s.cur ≤ s.others.length := by unfold State.CurOk State.nports at h; omega
  have hl : (s.others.take s.cur).length = s.cur := by simp [hc]
  simp only [State.ports]
  rw [List.getElem?_append_right (by omega), hl, Nat.sub_self, List.getElem?_cons_zero]

/-- Selecting the instance at hand changes nothing. -/
theorem State.select_cur (s : State) (h : s.CurOk) : s.select s.cur = s := by
  have hc : s.cur ≤ s.others.length := by unfold State.CurOk State.nports at h; omega
  unfold State.select
  rw [s.ports_cur h]
  have he : s.ports.eraseIdx s.cur = s.others := by
    have hl : (s.others.take s.cur).length = s.cur := by simp [hc]
    simp only [State.ports]
    rw [List.eraseIdx_append_of_length_le (by omega), hl, Nat.sub_self, List.eraseIdx_cons_zero, List.take_append_drop]
  rw [he]

/-- A change of the instance at hand leaves every other instance as it was. -/
theorem State.ports_other (s : State) (o : Port) (j : Nat) (h : s.CurOk) (hj : j ≠ s.cur) :
    ({ s with port := o } : State).ports[j]? = s.ports[j]? := by
  have hc : s.cur ≤ s.others.length := by unfold State.CurOk State.nports at h; omega
  have hl : (s.others.take s.cur).length = s.cur := by simp [hc]
  simp only [State.ports]
  rcases Nat.lt_or_gt_of_ne hj with hlt | hgt
  · rw [List.getElem?_append_left (by omega), List.getElem?_append_left (by omega)]
  · rw [List.getElem?_append_right (by omega), List.getElem?_append_right (by omega), hl]
    obtain ⟨k, hk⟩ : ∃ k, j - s.cur = k + 1 := ⟨j - s.cur - 1, by omega⟩
    rw [hk, List.getElem?_cons_succ, List.getElem?_cons_succ]

/-! The queue transactions -/

/-- Everything ENQ's pseudocode can do (40_queue_ops R100). -/
theorem enqWith_cases (held : Instr) (pol : Policy) (b : Byte) (s : State) :
    (s.txHasRoom = true ∧ enqWith held pol b s = .next (s.enqDone b)) ∨
    (s.txHasRoom = false ∧ (pol = .noWait ∨ pol = .upTo 0) ∧
      enqWith held pol b s = .next (s.modPort (Port.respondHost .full 0 0))) ∨
    (s.txHasRoom = false ∧ pol ≠ .noWait ∧ pol ≠ .upTo 0 ∧ enqWith held pol b s = .next (s.modPort (Port.hold held))) := by
  unfold enqWith
  cases hr : s.txHasRoom
  · cases pol with
    | noWait => simp
    | forever => simp
    | upTo n =>
      by_cases hn : n = 0
      · subst hn; exact Or.inr (Or.inl ⟨rfl, Or.inr rfl, rfl⟩)
      · exact Or.inr (Or.inr ⟨rfl, by simp, fun h => hn (by injection h), by simp only [if_neg hn]; rfl⟩)
  · simp

/-- Everything DEQ's pseudocode can do (40_queue_ops R106). -/
theorem deqWith_cases (held : Instr) (pol : Policy) (s : State) :
    (s.rxHasByte = true ∧ deqWith held pol s = .next s.deqDone) ∨
    (s.rxHasByte = false ∧ (pol = .noWait ∨ pol = .upTo 0) ∧
      deqWith held pol s = .next (s.modPort (Port.respondHost .empty 0 0))) ∨
    (s.rxHasByte = false ∧ pol ≠ .noWait ∧ pol ≠ .upTo 0 ∧ deqWith held pol s = .next (s.modPort (Port.hold held))) := by
  unfold deqWith
  cases hr : s.rxHasByte
  · cases pol with
    | noWait => simp
    | forever => simp
    | upTo n =>
      by_cases hn : n = 0
      · subst hn; exact Or.inr (Or.inl ⟨rfl, Or.inr rfl, rfl⟩)
      · exact Or.inr (Or.inr ⟨rfl, by simp, fun h => hn (by injection h), by simp only [if_neg hn]; rfl⟩)
  · simp

/-! exec -/

/-- What one request can do to the machine, case by case, each with the condition it is taken under. -/
inductive ExecMove (i : Instr) (s : State) : State → Prop where
  /-- A device transaction that is not enabled. -/
  | notEnabled (h : i = .txsvc ∨ ∃ b, i = .rxsvc b) : ExecMove i s s
  /-- A response and nothing else. -/
  | answer (r : ReqPort) (st : Status) (d : Byte) (n : Nat) : ExecMove i s (s.modPort (Port.respondOn r st d n))
  | hold (h1 : i.mayHold = true) (h2 : i.wf = true) (h3 : s.canComplete i = false) : ExecMove i s (s.modPort (Port.hold i))
  | enq (b : Byte) (h : s.txHasRoom = true) : ExecMove i s (s.enqDone b)
  | deq (h : s.rxHasByte = true) : ExecMove i s s.deqDone
  | txIdle (h1 : s.txsvcEnabled = true) (h2 : s.txEmpty = true) : ExecMove i s s.txsvcIdle
  | txSend (h1 : s.txsvcEnabled = true) (h2 : s.txEmpty = false) : ExecMove i s s.txsvcSend
  | rxDrop (b : Byte) (h1 : s.rxsvcEnabled b = true) (h2 : s.rxFull = true) : ExecMove i s (s.rxsvcDrop b)
  | rxStore (b : Byte) (h1 : s.rxsvcEnabled b = true) (h2 : s.rxFull = false) : ExecMove i s (s.rxsvcStore b)
  | arm (h : i = .armtx) : ExecMove i s (s.modPort fun o => (o.arm s.params).respondHost .ok 0 0)
  | enableRx (h : i = .armrx) : ExecMove i s (s.modPort fun o => o.enableRx.respondHost .ok 0 0)
  | clearOvf (h : i = .ovfclr) : ExecMove i s (s.modPort fun o => o.clearOvf.respondHost .ok (bitByte o.ovf) 0)

theorem enqWith_move (held : Instr) (pol : Policy) (b : Byte) (s : State)
    (hc : pol ≠ .noWait → s.canComplete held = s.txHasRoom)
    (hm : pol ≠ .noWait → pol ≠ .upTo 0 → held.mayHold = true ∧ held.wf = true) :
    ∃ t, enqWith held pol b s = .next t ∧ ExecMove held s t := by
  rcases enqWith_cases held pol b s with ⟨h1, h2⟩ | ⟨_, _, h2⟩ | ⟨h1, h3, h4, h2⟩
  · exact ⟨_, h2, .enq b h1⟩
  · exact ⟨_, h2, .answer .host .full 0 0⟩
  · exact ⟨_, h2, .hold (hm h3 h4).1 (hm h3 h4).2 ((hc h3).trans h1)⟩

theorem deqWith_move (held : Instr) (pol : Policy) (s : State)
    (hc : pol ≠ .noWait → s.canComplete held = s.rxHasByte)
    (hm : pol ≠ .noWait → pol ≠ .upTo 0 → held.mayHold = true ∧ held.wf = true) :
    ∃ t, deqWith held pol s = .next t ∧ ExecMove held s t := by
  rcases deqWith_cases held pol s with ⟨h1, h2⟩ | ⟨_, _, h2⟩ | ⟨h1, h3, h4, h2⟩
  · exact ⟨_, h2, .deq h1⟩
  · exact ⟨_, h2, .answer .host .empty 0 0⟩
  · exact ⟨_, h2, .hold (hm h3 h4).1 (hm h3 h4).2 ((hc h3).trans h1)⟩

/-- A WaitUpTo operand other than 0 is a well-formed one. -/
theorem tmo_ne_zero_of_policy (tmo : Tmo) (h : Policy.upTo tmo ≠ .upTo 0) : (tmo != 0) = true := by
  simpa using h

/-- Everything exec can do: it answers a next state, and the state is one of ExecMove's. -/
theorem exec_cases (i : Instr) (s : State) : ∃ t, exec i s = .next t ∧ ExecMove i s t := by
  cases i with
  | nop => exact ⟨_, rfl, .answer s.reqPort .ok 0 0⟩
  | enqTxNw b => exact enqWith_move _ .noWait b s (fun h => absurd rfl h) (fun h => absurd rfl h)
  | enqTxWf b => exact enqWith_move _ .forever b s (fun _ => rfl) (fun _ _ => ⟨rfl, rfl⟩)
  | enqTxWt b tmo => exact enqWith_move _ (.upTo tmo) b s (fun _ => rfl) (fun _ h => ⟨rfl, tmo_ne_zero_of_policy tmo h⟩)
  | deqRxNw => exact deqWith_move _ .noWait s (fun h => absurd rfl h) (fun h => absurd rfl h)
  | deqRxWf => exact deqWith_move _ .forever s (fun _ => rfl) (fun _ _ => ⟨rfl, rfl⟩)
  | deqRxWt tmo => exact deqWith_move _ (.upTo tmo) s (fun _ => rfl) (fun _ h => ⟨rfl, tmo_ne_zero_of_policy tmo h⟩)
  | txsvc =>
    simp only [exec, execTxsvc]
    split_ifs with h1 h2
    · exact ⟨_, rfl, .txIdle h1 h2⟩
    · exact ⟨_, rfl, .txSend h1 (by simpa using h2)⟩
    · exact ⟨_, rfl, .notEnabled (Or.inl rfl)⟩
  | rxsvc b =>
    simp only [exec, execRxsvc]
    split_ifs with h1 h2
    · exact ⟨_, rfl, .rxDrop b h1 h2⟩
    · exact ⟨_, rfl, .rxStore b h1 (by simpa using h2)⟩
    · exact ⟨_, rfl, .notEnabled (Or.inr ⟨b, rfl⟩)⟩
  | armtx => exact ⟨_, rfl, .arm rfl⟩
  | armrx => exact ⟨_, rfl, .enableRx rfl⟩
  | ovfrd => exact ⟨_, rfl, .answer .host .ok (bitByte s.port.ovfH) 0⟩
  | ovfclr => exact ⟨_, rfl, .clearOvf rfl⟩
  | lvlTx => exact ⟨_, rfl, .answer .host .ok 0 (s.port.tx.pcount s.params)⟩
  | lvlRx => exact ⟨_, rfl, .answer .host .ok 0 (s.port.rx.ccount s.params)⟩

/-- The move behind a next state that exec answered. -/
theorem exec_move (i : Instr) (s t : State) (h : exec i s = .next t) : ExecMove i s t := by
  obtain ⟨u, hu, hm⟩ := exec_cases i s
  rw [hu] at h
  injection h with h
  exact h ▸ hm

/-- exec changes nothing but the instance at hand. -/
theorem exec_outer (i : Instr) (s t : State) (h : exec i s = .next t) : t = { s with port := t.port } := by
  cases exec_move i s t h <;> rfl

/-! The request ports and the step -/

/-- Everything a request word can do once it is tried (30_encoding R74, R77). -/
theorem tryWord_cases (r : ReqPort) (w : ReqWord) (tmo : Tmo) (s : State) :
    (∃ i, decode r w tmo = .ok i ∧ tryWord r w tmo s = exec i s) ∨
    (∃ e, decode r w tmo = .error e ∧ tryWord r w tmo s = .next (s.modPort (Port.answerIllegal r))) := by
  unfold tryWord
  cases decode r w tmo with
  | ok i => exact Or.inl ⟨i, rfl, rfl⟩
  | error e => exact Or.inr ⟨e, rfl, rfl⟩

/-- Everything the issue step of port H can do (40_queue_ops R116). -/
theorem issueHost_cases (w : ReqWord) (tmo : Tmo) (s : State) :
    (s.port.hreq ≠ none ∧ issueHost w tmo s = .next s) ∨
    (s.port.hreq = none ∧ issueHost w tmo s = tryWord .host w tmo (s.accept .host)) := by
  unfold issueHost
  cases s.port.hreq <;> simp

/-- Everything the complete step can do (40_queue_ops R116). -/
theorem completeHeld_cases (s : State) :
    (s.port.hreq = none ∧ completeHeld s = .next s) ∨
    (∃ i, s.port.hreq = some i ∧ completeHeld s = exec i { s with port := { s.port with hreq := none } }) := by
  unfold completeHeld
  cases s.port.hreq with
  | none => exact Or.inl ⟨rfl, rfl⟩
  | some i => exact Or.inr ⟨i, rfl, rfl⟩

/-- Everything the TMO step can do (43_sync_steps R190). -/
theorem timeoutStep_cases (s : State) :
    s.timeoutStep = s ∨
    (∃ i st, s.port.hreq = some i ∧ timeoutStatus i = some st ∧ s.inputs.tmoExpired = true ∧
      s.timeoutAllowed i = true ∧ s.timeoutStep = s.modPort (Port.endHeld st)) := by
  unfold State.timeoutStep
  split
  · exact Or.inl rfl
  · rename_i i hi
    split
    · exact Or.inl rfl
    · rename_i st hst
      split_ifs with h
      · simp only [Bool.and_eq_true] at h
        exact Or.inr ⟨i, st, hi, hst, h.1, h.2, rfl⟩
      · exact Or.inl rfl

theorem onInstance_cases (j : Nat) (f : State → Host.Outcome State Fault Refusal) (s : State) :
    (j < s.nports ∧ onInstance j f s = f (s.select j)) ∨ (¬ j < s.nports ∧ onInstance j f s = .next s) := by
  unfold onInstance
  split_ifs with h
  · exact Or.inl ⟨h, rfl⟩
  · exact Or.inr ⟨h, rfl⟩

/-- Everything one move of the host sequence can do (44_host_sequences). -/
theorem driverStep_cases (s : State) :
    driverStep s = .next s ∨
    (∃ q r, s.port.host.seq = some q ∧ s.port.hreq = none ∧ driverStep s = .next (s.takeResponse q r)) ∨
    (∃ q i, s.port.host.seq = some q ∧ s.port.hreq = none ∧ q.move s.port.host.autocrlf = .issue i ∧
      driverStep s = issueHost i.encode.1 i.encode.2 (s.modHost fun h => { h with awaiting := true })) ∨
    (∃ q', s.port.hreq = none ∧ driverStep s = .next (s.seqGoto q')) ∨
    (∃ res, s.port.hreq = none ∧ driverStep s = .next (s.apiReturn res)) := by
  unfold driverStep
  split
  · exact Or.inl rfl
  · rename_i q hq
    split_ifs with h1 h2
    · exact Or.inl rfl
    · have hn : s.port.hreq = none := by simpa using h1
      split
      · exact Or.inl rfl
      · rename_i r _
        exact Or.inr (Or.inl ⟨q, r, hq, hn, rfl⟩)
    · have hn : s.port.hreq = none := by simpa using h1
      split
      · rename_i i hi
        exact Or.inr (Or.inr (Or.inl ⟨q, i, hq, hn, hi, rfl⟩))
      · rename_i q' _
        exact Or.inr (Or.inr (Or.inr (Or.inl ⟨q', hn, rfl⟩)))
      · rename_i res _
        exact Or.inr (Or.inr (Or.inr (Or.inr ⟨res, hn, rfl⟩)))

/-- Settling an instance whose views equal their sources changes nothing (43_sync_steps R181). -/
theorem Port.settle_of_settled (p : Params) (o : Port) (h : o.settled p = true) : o.settle p = o := by
  simp only [Port.settled, Bool.and_eq_true, beq_iff_eq] at h
  obtain ⟨⟨⟨⟨h1, h2⟩, h3⟩, h4⟩, h5⟩ := h
  rcases o with ⟨⟨_, _, _, _, _⟩, ⟨_, _, _, _, _⟩, _, _, _, _, _, _, _, _, _, _, _, _⟩
  simp only at h1 h2 h3 h4 h5
  simp only [Port.settle, Queue.publishW, Queue.publishR, ← h1, ← h2, ← h3, ← h4, ← h5]

/-- A step that answers a next state is an event that did, followed by the eager sync. -/
theorem step_next_cases (s t : State) (h : step s = .next t) :
    ∃ u, runEvent s.draw.event s.taken = .next u ∧ t = u.settle := by
  unfold step settleOutcome at h
  cases hu : runEvent s.draw.event s.taken with
  | next u => rw [hu] at h; injection h with h; exact ⟨u, rfl, h.symm⟩
  | fault r => rw [hu] at h; cases h
  | refused r => rw [hu] at h; cases h

end Sys2Proof.Machine
end

