-- ==== Sys2Proof/Laws/Moves.lean ====
section
/-! SUPPORT. What a whole step can do to any one instance, said once: a chain of elementary moves. A property of instances that
every elementary move keeps is kept by every step. -/

namespace Sys2Proof.Machine

/-- An elementary change of one instance, with the condition it is taken under. -/
inductive PortMove (p : Params) : Port → Port → Prop where
  /-- Responses, the model-level mark set, and the host-side record. -/
  | outputs (o : Port) (h d : Option RspWord) (mark : Bool) (r : HostRecord) (hm : o.illegalIssued = true → mark = true) :
      PortMove p o { o with hRsp := h, dRsp := d, illegalIssued := mark, host := r }
  | unhold (o : Port) : PortMove p o { o with hreq := none }
  | hold (o : Port) (i : Instr) (h1 : i.mayHold = true) (h2 : i.wf = true) : PortMove p o (o.hold i)
  | pushTx (o : Port) (b : Byte) (h : o.tx.pcount p < p.cap) : PortMove p o (o.pushTx p b)
  | popRx (o : Port) (h : 0 < o.rx.ccount p) : PortMove p o (o.popRx p)
  | disarm (o : Port) (h1 : o.txIe = true) (h2 : o.tx.ccount p = 0) : PortMove p o o.disarm
  | popTx (o : Port) (b : Byte) (h1 : o.txIe = true) (h2 : o.tx.ccount p ≠ 0) : PortMove p o (o.popTx p b)
  | readByte (o : Port) (b : Byte) (h : o.rxIe = true) : PortMove p o (o.readByte b)
  | setOvf (o : Port) (h1 : o.rxIe = true) (h2 : o.rx.pcount p = p.cap) : PortMove p o o.setOvf
  | pushRx (o : Port) (b : Byte) (h1 : o.rxIe = true) (h2 : o.rx.pcount p ≠ p.cap) : PortMove p o (o.pushRx p b)
  | arm (o : Port) : PortMove p o (o.arm p)
  | enableRx (o : Port) : PortMove p o o.enableRx
  | clearOvf (o : Port) : PortMove p o o.clearOvf
  | cross (o : Port) (c : Crossing) (h : p.sync.isBypassed = false) : PortMove p o (o.cross p c)
  | settle (o : Port) (h : p.sync.isBypassed = true) : PortMove p o (o.settle p)
  | powerOn (o : Port) : PortMove p o o.powerOn

/-- A chain of elementary moves. -/
abbrev PortMoves (p : Params) : Port → Port → Prop := Relation.ReflTransGen (PortMove p)

theorem PortMoves.respondOn (p : Params) (o : Port) (r : ReqPort) (st : Status) (d : Byte) (n : Nat) :
    PortMove p o (o.respondOn r st d n) := by
  cases r
  · exact .outputs o (some (response st d n)) o.dRsp o.illegalIssued o.host id
  · exact .outputs o o.hRsp (some (response st d n)) o.illegalIssued o.host id

theorem PortMoves.answerIllegal (p : Params) (o : Port) (r : ReqPort) : PortMove p o (o.answerIllegal r) := by
  cases r
  · exact .outputs o (some (response .illegal 0 0)) o.dRsp true o.host (fun _ => rfl)
  · exact .outputs o o.hRsp (some (response .illegal 0 0)) true o.host (fun _ => rfl)

/-- What exec does to the instance at hand. -/
theorem exec_moves (i : Instr) (s t : State) (h : exec i s = .next t) : PortMoves s.params s.port t.port := by
  have one : ∀ {a b : Port}, PortMove s.params a b → PortMoves s.params a b := fun h => .single h
  have two : ∀ {a b c : Port}, PortMove s.params a b → PortMove s.params b c → PortMoves s.params a c :=
    fun h k => (Relation.ReflTransGen.single h).tail k
  cases exec_move i s t h with
  | notEnabled _ => exact .refl
  | answer r st d n => exact one (PortMoves.respondOn _ _ r st d n)
  | hold h1 h2 _ => exact one (.hold _ i h1 h2)
  | enq b hr =>
    exact two (.pushTx _ b (by simpa [State.txHasRoom] using hr)) (PortMoves.respondOn _ _ .host .ok 0 0)
  | deq hr =>
    exact two (.popRx _ (by simpa [State.rxHasByte] using hr)) (PortMoves.respondOn _ _ .host .ok _ 0)
  | txIdle h1 h2 =>
    simp only [State.txsvcEnabled, Bool.and_eq_true] at h1
    exact two (.disarm _ h1.1 (by simpa [State.txEmpty, Queue.emptyC] using h2)) (PortMoves.respondOn _ _ .device .idle 0 0)
  | txSend h1 h2 =>
    simp only [State.txsvcEnabled, Bool.and_eq_true] at h1
    exact two (.popTx _ _ h1.1 (by simpa [State.txEmpty, Queue.emptyC] using h2)) (PortMoves.respondOn _ _ .device .ok _ 0)
  | rxDrop b h1 h2 =>
    simp only [State.rxsvcEnabled, Bool.and_eq_true] at h1
    exact .head (.readByte _ b h1.1.1) (two (.setOvf _ h1.1.1 (by simpa [State.rxFull, Queue.fullP] using h2))
      (PortMoves.respondOn _ _ .device .dropped 0 0))
  | rxStore b h1 h2 =>
    simp only [State.rxsvcEnabled, Bool.and_eq_true] at h1
    exact .head (.readByte _ b h1.1.1) (two (.pushRx _ b h1.1.1 (by simpa [State.rxFull, Queue.fullP] using h2))
      (PortMoves.respondOn _ _ .device .ok 0 0))
  | arm _ => exact two (.arm _) (PortMoves.respondOn _ _ .host .ok 0 0)
  | enableRx _ => exact two (.enableRx _) (PortMoves.respondOn _ _ .host .ok 0 0)
  | clearOvf _ => exact two (.clearOvf _) (PortMoves.respondOn _ _ .host .ok _ 0)

/-- No draw is taken and none is placed. -/
def DrawsKept (s t : State) : Prop := t.inbox = s.inbox ∧ t.tick = s.tick

theorem DrawsKept.trans {s t u : State} (h : DrawsKept s t) (k : DrawsKept t u) : DrawsKept s u :=
  ⟨k.1.trans h.1, k.2.trans h.2⟩

/-- u comes from s by moves of the instance at hand alone. -/
structure AtHand (s u : State) : Prop where
  params : u.params = s.params
  cur : u.cur = s.cur
  others : u.others = s.others
  draws : DrawsKept s u
  moves : PortMoves s.params s.port u.port

theorem AtHand.refl (s : State) : AtHand s s := ⟨rfl, rfl, rfl, ⟨rfl, rfl⟩, .refl⟩

theorem AtHand.trans {s t u : State} (h : AtHand s t) (k : AtHand t u) : AtHand s u :=
  ⟨k.params.trans h.params, k.cur.trans h.cur, k.others.trans h.others, h.draws.trans k.draws, h.moves.trans (h.params ▸ k.moves)⟩

theorem AtHand.move {s u : State} (hp : u.params = s.params) (hc : u.cur = s.cur) (ho : u.others = s.others)
    (hd : DrawsKept s u) (hm : PortMove s.params s.port u.port) : AtHand s u := ⟨hp, hc, ho, hd, .single hm⟩

theorem exec_atHand (i : Instr) (s t : State) (h : exec i s = .next t) : AtHand s t := by
  have ho := exec_outer i s t h
  exact ⟨by rw [ho], by rw [ho], by rw [ho], by rw [ho]; exact ⟨rfl, rfl⟩, exec_moves i s t h⟩

theorem modHost_atHand (f : HostRecord → HostRecord) (s : State) : AtHand s (s.modHost f) :=
  .move rfl rfl rfl ⟨rfl, rfl⟩ (.outputs s.port s.port.hRsp s.port.dRsp s.port.illegalIssued (f s.port.host) id)

theorem seqGoto_atHand (q : HostSeq) (s : State) : AtHand s (s.seqGoto q) := modHost_atHand _ s

theorem apiReturn_atHand (r : ApiResult) (s : State) : AtHand s (s.apiReturn r) :=
  .move rfl rfl rfl ⟨rfl, rfl⟩ (.outputs s.port s.port.hRsp s.port.dRsp s.port.illegalIssued _ id)

theorem accept_atHand (r : ReqPort) (s : State) : AtHand s (s.accept r) := by
  cases r
  · exact .move rfl rfl rfl ⟨rfl, rfl⟩ (.outputs s.port none s.port.dRsp s.port.illegalIssued s.port.host id)
  · exact ⟨rfl, rfl, rfl, ⟨rfl, rfl⟩, .refl⟩

theorem tryWord_atHand (r : ReqPort) (w : ReqWord) (tmo : Tmo) (s t : State) (h : tryWord r w tmo s = .next t) :
    AtHand s t := by
  rcases tryWord_cases r w tmo s with ⟨i, _, hi⟩ | ⟨e, _, he⟩
  · exact exec_atHand i s t (hi ▸ h)
  · rw [he] at h
    injection h with h
    subst h
    exact .move rfl rfl rfl ⟨rfl, rfl⟩ (PortMoves.answerIllegal _ _ r)

theorem issueHost_atHand (w : ReqWord) (tmo : Tmo) (s t : State) (h : issueHost w tmo s = .next t) : AtHand s t := by
  rcases issueHost_cases w tmo s with ⟨_, hi⟩ | ⟨_, hi⟩
  · rw [hi] at h; injection h with h; subst h; exact .refl s
  · exact (accept_atHand .host s).trans (tryWord_atHand _ _ _ _ _ (hi ▸ h))

theorem issueDevice_atHand (w : ReqWord) (s t : State) (h : issueDevice w s = .next t) : AtHand s t :=
  (accept_atHand .device s).trans (tryWord_atHand _ _ _ _ _ h)

theorem completeHeld_atHand (s t : State) (h : completeHeld s = .next t) : AtHand s t := by
  rcases completeHeld_cases s with ⟨_, hi⟩ | ⟨i, _, hi⟩
  · rw [hi] at h; injection h with h; subst h; exact .refl s
  · rw [hi] at h
    have hm : AtHand s { s with port := { s.port with hreq := none } } := .move rfl rfl rfl ⟨rfl, rfl⟩ (.unhold s.port)
    exact hm.trans (exec_atHand i _ t h)

theorem timeoutStep_atHand (s : State) : AtHand s s.timeoutStep := by
  rcases timeoutStep_cases s with h | ⟨_, st, _, _, _, _, h⟩
  · rw [h]; exact .refl s
  · rw [h]
    exact ⟨rfl, rfl, rfl, ⟨rfl, rfl⟩,
      (Relation.ReflTransGen.single (PortMoves.respondOn _ _ .host st 0 0)).tail (.unhold _)⟩

theorem syncStep_atHand (c : Crossing) (s : State) : AtHand s (s.syncStep c) := by
  unfold State.syncStep
  split_ifs with h
  · exact .refl s
  · exact .move rfl rfl rfl ⟨rfl, rfl⟩ (.cross _ c (by simpa using h))

theorem settle_atHand (s : State) : AtHand s s.settle := by
  unfold State.settle
  split_ifs with h
  · exact .move rfl rfl rfl ⟨rfl, rfl⟩ (.settle _ h)
  · exact .refl s

theorem takeResponse_atHand (q : HostSeq) (r : RspWord) (s : State) : AtHand s (s.takeResponse q r) := by
  unfold State.takeResponse
  split
  · exact seqGoto_atHand _ s
  · exact seqGoto_atHand _ s
  · exact (modHost_atHand _ s).trans (apiReturn_atHand _ _)

theorem driverStep_atHand (s t : State) (h : driverStep s = .next t) : AtHand s t := by
  rcases driverStep_cases s with hd | ⟨q, r, _, _, hd⟩ | ⟨q, i, _, _, _, hd⟩ | ⟨q, _, hd⟩ | ⟨res, _, hd⟩ <;> rw [hd] at h
  · injection h with h; subst h; exact .refl s
  · injection h with h; subst h; exact takeResponse_atHand q r s
  · exact (modHost_atHand _ s).trans (issueHost_atHand _ _ _ _ h)
  · injection h with h; subst h; exact seqGoto_atHand q s
  · injection h with h; subst h; exact apiReturn_atHand res s

theorem startCall_atHand (c : ApiCall) (s : State) : AtHand s (s.startCall c) := by
  have hg : ∀ q, AtHand s (s.guarded q) := by
    intro q
    unfold State.guarded
    split_ifs
    · exact seqGoto_atHand q s
    · exact apiReturn_atHand _ s
  cases c with
  | init _ => exact seqGoto_atHand _ s
  | setAutocrlf e => exact (modHost_atHand _ s).trans (apiReturn_atHand _ _)
  | write _ => exact hg _
  | writeWith _ _ => exact hg _
  | putchar _ => exact hg _
  | read _ _ => exact hg _
  | getchar _ => exact hg _
  | rxOverflow => exact seqGoto_atHand _ s
  | clearRxOverflow => exact seqGoto_atHand _ s

theorem hostWord_atHand (w : ReqWord) (tmo : Tmo) (s t : State) (h : hostWord w tmo s = .next t) : AtHand s t := by
  unfold hostWord at h
  split_ifs at h
  · injection h with h; subst h; exact .refl s
  · exact issueHost_atHand _ _ _ _ h

/-- Instance by instance, t comes from s by moves. -/
def PortwiseMoves (s t : State) : Prop :=
  t.params = s.params ∧ t.nports = s.nports ∧ (s.CurOk → t.CurOk) ∧
  (s.CurOk → ∀ (j : Nat) (o' : Port), t.ports[j]? = some o' → ∃ o, s.ports[j]? = some o ∧ PortMoves s.params o o')

/-- Moves of the instance at hand leave every other instance as it was. -/
theorem AtHand.ports_other {s t : State} (h : AtHand s t) (hc : s.CurOk) (j : Nat) (hj : j ≠ s.cur) :
    t.ports[j]? = s.ports[j]? := by
  have ht : t.ports = ({ s with port := t.port } : State).ports := by simp only [State.ports, h.cur, h.others]
  rw [ht, s.ports_other t.port j hc hj]

theorem AtHand.portwise {s t : State} (h : AtHand s t) : PortwiseMoves s t := by
  have hn : t.nports = s.nports := by unfold State.nports; rw [h.others]
  have hk : s.CurOk → t.CurOk := by unfold State.CurOk; rw [hn, h.cur]; exact id
  have ht : t.ports = ({ s with port := t.port } : State).ports := by
    simp only [State.ports, h.cur, h.others]
  refine ⟨h.params, hn, hk, fun hc j o' hj => ?_⟩
  by_cases hjc : j = s.cur
  · subst hjc
    have h2 := t.ports_cur (hk hc)
    rw [h.cur, hj] at h2
    injection h2 with h2
    exact ⟨s.port, s.ports_cur hc, h2 ▸ h.moves⟩
  · rw [ht, s.ports_other t.port j hc hjc] at hj
    exact ⟨o', hj, .refl⟩

theorem PortwiseMoves.trans {s t u : State} (h : PortwiseMoves s t) (k : PortwiseMoves t u) : PortwiseMoves s u := by
  refine ⟨k.1.trans h.1, k.2.1.trans h.2.1, fun hc => k.2.2.1 (h.2.2.1 hc), fun hc j o' hj => ?_⟩
  obtain ⟨o1, h1, m1⟩ := k.2.2.2 (h.2.2.1 hc) j o' hj
  obtain ⟨o, h0, m0⟩ := h.2.2.2 hc j o1 h1
  exact ⟨o, h0, m0.trans (h.1 ▸ m1)⟩

theorem PortwiseMoves.of_ports {s t : State} (hp : t.params = s.params) (hs : t.ports = s.ports)
    (hc : s.CurOk → t.CurOk) : PortwiseMoves s t := by
  have hn : t.nports = s.nports := by rw [← State.length_ports, hs, State.length_ports]
  exact ⟨hp, hn, hc, fun _ j o' hj => ⟨o', hs ▸ hj, .refl⟩⟩

theorem onInstance_portwise (j : Nat) (f : State → Host.Outcome State Fault Refusal)
    (hf : ∀ s t, f s = .next t → AtHand s t) (s t : State) (h : onInstance j f s = .next t) : PortwiseMoves s t := by
  rcases onInstance_cases j f s with ⟨_, hj⟩ | ⟨_, hj⟩ <;> rw [hj] at h
  · exact (PortwiseMoves.of_ports (by simp) (by simp) (s.select_curOk j)).trans (hf _ _ h).portwise
  · injection h with h; subst h; exact .of_ports rfl rfl id

theorem apiCall_portwise (portId : Nat) (c : ApiCall) (s : State) : PortwiseMoves s (s.apiCall portId c) := by
  unfold State.apiCall
  split
  · exact .of_ports rfl rfl id
  · rename_i i _
    have hs : PortwiseMoves s (s.select i) := .of_ports (by simp) (by simp) (s.select_curOk i)
    split_ifs
    · exact hs.trans (startCall_atHand c _).portwise
    · exact hs
    · exact .of_ports rfl rfl id

theorem powerOn_portwise (s : State) : PortwiseMoves s s.powerOn := by
  have hp : s.powerOn.ports = s.ports.map Port.powerOn := by
    simp [State.ports, List.map_take, List.map_drop]
  have hn : s.powerOn.nports = s.nports := by simp [State.nports]
  refine ⟨rfl, hn, fun h => by unfold State.CurOk; rw [hn]; exact h, fun _ j o' hj => ?_⟩
  rw [hp, List.getElem?_map] at hj
  cases ho : s.ports[j]? with
  | none => rw [ho] at hj; cases hj
  | some o =>
    rw [ho] at hj
    injection hj with hj
    exact ⟨o, rfl, hj ▸ .single (.powerOn o)⟩

theorem runEvent_portwise (e : Event) (s t : State) (h : runEvent e s = .next t) : PortwiseMoves s t := by
  cases e with
  | host i w tmo => exact onInstance_portwise i _ (hostWord_atHand w tmo) s t h
  | device i w => exact onInstance_portwise i _ (issueDevice_atHand w) s t h
  | complete i => exact onInstance_portwise i _ completeHeld_atHand s t h
  | sync i c =>
    exact onInstance_portwise i (fun t => .next (t.syncStep c))
      (fun a b hb => by injection hb with hb; exact hb ▸ syncStep_atHand c a) s t h
  | timeout i =>
    exact onInstance_portwise i (fun t => .next t.timeoutStep)
      (fun a b hb => by injection hb with hb; exact hb ▸ timeoutStep_atHand a) s t h
  | call portId c => injection h with h; exact h ▸ apiCall_portwise portId c s
  | driver i => exact onInstance_portwise i _ driverStep_atHand s t h
  | reset => injection h with h; exact h ▸ powerOn_portwise s

/-- What a step can do to every instance: nothing but chains of elementary moves, under the same parameters. -/
theorem step_portwise (s t : State) (h : step s = .next t) : PortwiseMoves s t := by
  obtain ⟨u, hu, rfl⟩ := step_next_cases s t h
  have h0 : PortwiseMoves s s.taken := .of_ports rfl rfl id
  exact (h0.trans (runEvent_portwise _ _ _ hu)).trans (settle_atHand u).portwise

/-- A property of instances that every elementary move keeps holds after a step of every instance it held of before. -/
theorem step_keeps_portwise (P : Port → Prop) (s t : State) (h : step s = .next t) (hc : s.CurOk)
    (hP : ∀ o o', PortMove s.params o o' → P o → P o') (j : Nat) (o' : Port) (hj : t.ports[j]? = some o')
    (hs : ∀ o, s.ports[j]? = some o → P o) : P o' := by
  obtain ⟨o, ho, hm⟩ := (step_portwise s t h).2.2.2 hc j o' hj
  have hall : ∀ a, PortMoves s.params o a → P a := by
    intro a ha
    induction ha with
    | refl => exact hs o ho
    | tail _ hlast ih => exact hP _ _ hlast ih
  exact hall o' hm

/-- The same for all instances at once: one induction for every invariant of instances. -/
theorem step_keeps_allPorts (P : Port → Prop) (s t : State) (h : step s = .next t) (hc : s.CurOk)
    (hP : ∀ o o', PortMove s.params o o' → P o → P o') (hs : s.AllPorts P) : t.AllPorts P := by
  intro o' ho'
  obtain ⟨j, hj, rfl⟩ := List.getElem_of_mem ho'
  exact step_keeps_portwise P s t h hc hP j _ (List.getElem?_eq_getElem hj) (fun o ho => hs o (List.mem_of_getElem? ho))

end Sys2Proof.Machine
end

