-- ==== Sys2Proof/Laws/HostRecord.lean ====
section
/-! SUPPORT. What each agent's step does to the host-side record: the block's own steps leave it, and only a call and the host
sequence's moves write it (10_state R36, 44_host_sequences). -/

namespace Sys2Proof.Machine

theorem exec_host (i : Instr) (s t : State) (h : exec i s = .next t) : t.port.host = s.port.host := by
  cases exec_move i s t h <;> simp

theorem tryWord_host (r : ReqPort) (w : ReqWord) (tmo : Tmo) (s t : State) (h : tryWord r w tmo s = .next t) :
    t.port.host = s.port.host := by
  rcases tryWord_cases r w tmo s with ⟨i, _, hi⟩ | ⟨e, _, he⟩
  · exact exec_host i s t (hi ▸ h)
  · rw [he] at h; injection h with h; subst h; simp

theorem issueHost_host (w : ReqWord) (tmo : Tmo) (s t : State) (h : issueHost w tmo s = .next t) :
    t.port.host = s.port.host := by
  rcases issueHost_cases w tmo s with ⟨_, hi⟩ | ⟨_, hi⟩ <;> rw [hi] at h
  · injection h with h; subst h; rfl
  · simpa using tryWord_host _ _ _ _ _ h

theorem hostWord_host (w : ReqWord) (tmo : Tmo) (s t : State) (h : hostWord w tmo s = .next t) :
    t.port.host = s.port.host := by
  unfold hostWord at h
  split_ifs at h
  · injection h with h; subst h; rfl
  · exact issueHost_host _ _ _ _ h

theorem issueDevice_host (w : ReqWord) (s t : State) (h : issueDevice w s = .next t) : t.port.host = s.port.host := by
  simpa using tryWord_host _ _ _ _ _ h

theorem completeHeld_host (s t : State) (h : completeHeld s = .next t) : t.port.host = s.port.host := by
  rcases completeHeld_cases s with ⟨_, hi⟩ | ⟨i, _, hi⟩ <;> rw [hi] at h
  · injection h with h; subst h; rfl
  · have hh := exec_host i _ t h
    exact hh

theorem timeoutStep_host (s : State) : s.timeoutStep.port.host = s.port.host := by
  rcases timeoutStep_cases s with h | ⟨_, _, _, _, _, _, h⟩
  · rw [h]
  · rw [h]; rfl

theorem syncStep_host (c : Crossing) (s : State) : (s.syncStep c).port.host = s.port.host := by
  rw [State.syncStep_port]; split_ifs
  · rfl
  · cases c <;> rfl

theorem settle_host (s : State) : s.settle.port.host = s.port.host := by
  rw [State.settle_port]; split_ifs <;> rfl

/-- No move of a sequence but init's own leads to init. -/
theorem HostSeq.goto_ne_init (autocrlf : Bool) (q q' : HostSeq) (h : q.move autocrlf = .goto q') : q' ≠ .init := by
  unfold HostSeq.move at h
  split at h <;> (try split_ifs at h) <;> cases h <;> simp

theorem HostSeq.onResponse_goto_ne_init (mode : WriteFailMode) (r : RspWord) (q q' : HostSeq)
    (h : q.onResponse mode r = .goto q') : q' ≠ .init := by
  unfold HostSeq.onResponse at h
  split at h <;> (try split_ifs at h) <;> cases h <;> simp

/-- What a host sequence's move does to the record: autocrlf stays, initialized rises only as an init ends, and no other sequence
turns into an init (44_host_sequences R202, R203). -/
theorem driverStep_host (s t : State) (h : driverStep s = .next t) :
    t.port.host.autocrlf = s.port.host.autocrlf ∧
    (t.port.host.initialized = s.port.host.initialized ∨
      (t.port.host.initialized = true ∧ s.port.host.seq = some .init)) ∧
    (t.port.host.seq = some .init → s.port.host.seq = some .init) := by
  unfold driverStep at h
  split at h
  · injection h with h; subst h; exact ⟨rfl, Or.inl rfl, id⟩
  · rename_i q hq
    split_ifs at h
    · injection h with h; subst h; exact ⟨rfl, Or.inl rfl, id⟩
    · split at h
      · injection h with h; subst h; exact ⟨rfl, Or.inl rfl, id⟩
      · rename_i r _
        injection h with h
        subst h
        unfold State.takeResponse
        split
        · exact ⟨rfl, Or.inl rfl, fun hh => hq.trans (by simpa using hh)⟩
        · rename_i q' hg
          exact ⟨rfl, Or.inl rfl, fun hh =>
            absurd (by simpa using hh) (HostSeq.onResponse_goto_ne_init _ _ _ _ hg)⟩
        · refine ⟨rfl, ?_, fun hh => by simp at hh⟩
          cases q with
          | init => exact Or.inr ⟨by simp [HostSeq.marksInitialized], hq⟩
          | write _ _ _ _ => exact Or.inl (by simp [HostSeq.marksInitialized])
          | read _ _ _ => exact Or.inl (by simp [HostSeq.marksInitialized])
          | rxOverflow => exact Or.inl (by simp [HostSeq.marksInitialized])
          | clearRxOverflow => exact Or.inl (by simp [HostSeq.marksInitialized])
    · split at h
      · have hh := issueHost_host _ _ _ _ h
        rw [hh]
        exact ⟨rfl, Or.inl rfl, fun h => h⟩
      · rename_i q' hg
        injection h with h
        subst h
        exact ⟨rfl, Or.inl rfl, fun hh => absurd (by simpa using hh) (HostSeq.goto_ne_init _ _ _ hg)⟩
      · injection h with h
        subst h
        exact ⟨rfl, Or.inl rfl, fun hh => by simp at hh⟩

/-- What a call does to the record: initialized stays, only init begins an init and only set_autocrlf writes autocrlf
(44_host_sequences R202, R203). -/
theorem startCall_host (c : ApiCall) (s : State) :
    (s.startCall c).port.host.initialized = s.port.host.initialized ∧
    ((s.startCall c).port.host.seq = some .init → ∃ baud, c = .init baud) ∧
    ((s.startCall c).port.host.autocrlf ≠ s.port.host.autocrlf →
      c = .setAutocrlf (s.startCall c).port.host.autocrlf) := by
  have guarded : ∀ q, q ≠ .init →
      (s.guarded q).port.host.initialized = s.port.host.initialized ∧
      ((s.guarded q).port.host.seq = some .init → ∃ baud, c = .init baud) ∧
      ((s.guarded q).port.host.autocrlf ≠ s.port.host.autocrlf → c = .setAutocrlf (s.guarded q).port.host.autocrlf) := by
    intro q hq
    unfold State.guarded
    split_ifs <;> simp [hq]
  cases c with
  | init baud => exact ⟨rfl, fun _ => ⟨baud, rfl⟩, fun h => absurd rfl h⟩
  | setAutocrlf e => exact ⟨rfl, fun h => by simp [State.startCall] at h, fun _ => rfl⟩
  | write bytes => exact guarded _ (by simp)
  | writeWith pol bytes => exact guarded _ (by simp)
  | putchar b => exact guarded _ (by simp)
  | read n t => exact guarded _ (by simp)
  | getchar t => exact guarded _ (by simp)
  | rxOverflow => exact ⟨rfl, fun h => by simp [State.startCall] at h, fun h => absurd rfl h⟩
  | clearRxOverflow => exact ⟨rfl, fun h => by simp [State.startCall] at h, fun h => absurd rfl h⟩

end Sys2Proof.Machine
end

