-- ==== Sys2Proof/Laws/PerInstr.lean ====
section
/-! SUPPORT. A statement about every request as syntax, one lemma per constructor: its word has RSV = 0, no reserved policy and an
operation code below 0xA (30_encoding R70, R77). -/

namespace Sys2Proof.Laws.WordShape

/-- The word that spells a request has RSV = 0, POL ≠ 11 and OP < 0xA (30_encoding R70, R77). -/
def Statement (i : Instr) : Prop :=
  reqRsv i.encode.1 = false ∧ reqPol i.encode.1 ≠ 0b11 ∧ (reqOp i.encode.1).toNat < 0xA

/-- The fields of a word that reqWord builds are the fields it was built from. -/
theorem fields_of_reqWord (op : BitVec 4) (pol : BitVec 2) (q : BitVec 1) (b : Byte) :
    reqRsv (reqWord op pol q b) = false ∧ reqPol (reqWord op pol q b) = pol ∧ reqOp (reqWord op pol q b) = op := by
  refine ⟨?_, ?_, ?_⟩
  · simp [reqRsv, reqWord]
  · apply BitVec.eq_of_getLsbD_eq
    intro k hk
    interval_cases k <;> simp [reqPol, reqWord]
  · apply BitVec.eq_of_getLsbD_eq
    intro k hk
    interval_cases k <;> simp [reqOp, reqWord]

theorem of_reqWord (i : Instr) (op : BitVec 4) (pol : BitVec 2) (q : BitVec 1) (b : Byte)
    (h : i.encode.1 = reqWord op pol q b) (hp : pol ≠ 0b11) (ho : op.toNat < 0xA) : Statement i := by
  obtain ⟨h1, h2, h3⟩ := fields_of_reqWord op pol q b
  rw [Statement, h, h1, h2, h3]
  exact ⟨rfl, hp, ho⟩

theorem nop : Statement .nop := of_reqWord _ 0x0 0b00 0 0 rfl (by decide) (by decide)
theorem enqTxNw (b : Byte) : Statement (.enqTxNw b) := of_reqWord _ 0x1 0b00 0 b rfl (by decide) (by decide)
theorem enqTxWf (b : Byte) : Statement (.enqTxWf b) := of_reqWord _ 0x1 0b01 0 b rfl (by decide) (by decide)
theorem enqTxWt (b : Byte) (tmo : Tmo) : Statement (.enqTxWt b tmo) := of_reqWord _ 0x1 0b10 0 b rfl (by decide) (by decide)
theorem deqRxNw : Statement .deqRxNw := of_reqWord _ 0x2 0b00 1 0 rfl (by decide) (by decide)
theorem deqRxWf : Statement .deqRxWf := of_reqWord _ 0x2 0b01 1 0 rfl (by decide) (by decide)
theorem deqRxWt (tmo : Tmo) : Statement (.deqRxWt tmo) := of_reqWord _ 0x2 0b10 1 0 rfl (by decide) (by decide)
theorem txsvc : Statement .txsvc := of_reqWord _ 0x3 0b00 0 0 rfl (by decide) (by decide)
theorem rxsvc (b : Byte) : Statement (.rxsvc b) := of_reqWord _ 0x4 0b00 1 b rfl (by decide) (by decide)
theorem armtx : Statement .armtx := of_reqWord _ 0x5 0b00 0 0 rfl (by decide) (by decide)
theorem armrx : Statement .armrx := of_reqWord _ 0x6 0b00 1 0 rfl (by decide) (by decide)
theorem ovfrd : Statement .ovfrd := of_reqWord _ 0x7 0b00 1 0 rfl (by decide) (by decide)
theorem ovfclr : Statement .ovfclr := of_reqWord _ 0x8 0b00 1 0 rfl (by decide) (by decide)
theorem lvlTx : Statement .lvlTx := of_reqWord _ 0x9 0b00 0 0 rfl (by decide) (by decide)
theorem lvlRx : Statement .lvlRx := of_reqWord _ 0x9 0b00 1 0 rfl (by decide) (by decide)

end Sys2Proof.Laws.WordShape
end

