-- ==== Sys2Proof/Laws/Queues.lean ====
section
/-! SUPPORT. How the counts of a queue move under its four operations (10_state R27). -/

namespace Sys2Proof.Machine

variable (p : Params) (q : Queue)

theorem Queue.pcount_enqueue (b : Byte) (h : q.pcount p + 1 < p.span) : (q.enqueue p b).pcount p = q.pcount p + 1 := by
  simp only [Queue.pcount, Queue.enqueue_wptr, Queue.enqueue_rsync, ptrVal_ptrInc]
  exact diff2C_succ_left p _ _ (ptrVal_lt p _) (viewVal_lt p _) h

theorem Queue.tcount_enqueue (b : Byte) (h : q.tcount p + 1 < p.span) : (q.enqueue p b).tcount p = q.tcount p + 1 := by
  simp only [Queue.tcount, Queue.enqueue_wptr, Queue.enqueue_rptr, ptrVal_ptrInc]
  exact diff2C_succ_left p _ _ (ptrVal_lt p _) (ptrVal_lt p _) h

@[simp] theorem Queue.ccount_enqueue (b : Byte) : (q.enqueue p b).ccount p = q.ccount p := rfl

theorem Queue.ccount_dequeue (h : 0 < q.ccount p) : (q.dequeue p).ccount p = q.ccount p - 1 := by
  simp only [Queue.ccount, Queue.dequeue_wsync, Queue.dequeue_rptr, ptrVal_ptrInc]
  exact diff2C_succ_right p _ _ (viewVal_lt p _) (ptrVal_lt p _) h

theorem Queue.tcount_dequeue (h : 0 < q.tcount p) : (q.dequeue p).tcount p = q.tcount p - 1 := by
  simp only [Queue.tcount, Queue.dequeue_wptr, Queue.dequeue_rptr, ptrVal_ptrInc]
  exact diff2C_succ_right p _ _ (ptrVal_lt p _) (ptrVal_lt p _) h

@[simp] theorem Queue.pcount_dequeue : (q.dequeue p).pcount p = q.pcount p := rfl

@[simp] theorem Queue.pcount_publishW : (q.publishW p).pcount p = q.pcount p := rfl
@[simp] theorem Queue.tcount_publishW : (q.publishW p).tcount p = q.tcount p := rfl
@[simp] theorem Queue.ccount_publishW : (q.publishW p).ccount p = q.tcount p := by
  simp [Queue.ccount, Queue.tcount]

@[simp] theorem Queue.ccount_publishR : (q.publishR p).ccount p = q.ccount p := rfl
@[simp] theorem Queue.tcount_publishR : (q.publishR p).tcount p = q.tcount p := rfl
@[simp] theorem Queue.pcount_publishR : (q.publishR p).pcount p = q.tcount p := by
  simp [Queue.pcount, Queue.tcount]

@[simp] theorem diff2C_zero_zero : diff2C p 0 0 = 0 := by simp [diff2C]

@[simp] theorem Queue.reset_pcount : Queue.reset.pcount p = 0 := by
  rw [show Queue.reset.pcount p = diff2C p (ptrVal p 0) (viewVal p 0) from rfl, ptrVal_zero, viewVal_zero, diff2C_zero_zero]

@[simp] theorem Queue.reset_ccount : Queue.reset.ccount p = 0 := by
  rw [show Queue.reset.ccount p = diff2C p (viewVal p 0) (ptrVal p 0) from rfl, ptrVal_zero, viewVal_zero, diff2C_zero_zero]

@[simp] theorem Queue.reset_tcount : Queue.reset.tcount p = 0 := by
  rw [show Queue.reset.tcount p = diff2C p (ptrVal p 0) (ptrVal p 0) from rfl, ptrVal_zero, diff2C_zero_zero]

end Sys2Proof.Machine
end

