-- ==== Sys2Proof/Laws/Runs.lean ====
section
/-! SUPPORT. What a step does to the draws and to a held request, how a run goes on, and that the turns of the weakly fair events
all come (43_sync_steps R189, R191). -/

namespace Sys2Proof.Machine

/-! The draws -/

theorem onInstance_draws (j : Nat) (f : State → Host.Outcome State Fault Refusal)
    (hf : ∀ s t, f s = .next t → AtHand s t) (s t : State) (h : onInstance j f s = .next t) : DrawsKept s t := by
  rcases onInstance_cases j f s with ⟨_, hj⟩ | ⟨_, hj⟩ <;> rw [hj] at h
  · exact DrawsKept.trans ⟨by simp, by simp⟩ (hf _ _ h).draws
  · injection h with h; subst h; exact ⟨rfl, rfl⟩

/-- An event takes no draw and places none. -/
theorem runEvent_draws (e : Event) (s t : State) (h : runEvent e s = .next t) : DrawsKept s t := by
  cases e with
  | host i w tmo => exact onInstance_draws i _ (hostWord_atHand w tmo) s t h
  | device i w => exact onInstance_draws i _ (issueDevice_atHand w) s t h
  | complete i => exact onInstance_draws i _ completeHeld_atHand s t h
  | sync i c =>
    exact onInstance_draws i (fun t => .next (t.syncStep c))
      (fun a b hb => by injection hb with hb; exact hb ▸ syncStep_atHand c a) s t h
  | timeout i =>
    exact onInstance_draws i (fun t => .next t.timeoutStep)
      (fun a b hb => by injection hb with hb; exact hb ▸ timeoutStep_atHand a) s t h
  | call portId c =>
    injection h with h
    subst h
    unfold State.apiCall
    split
    · exact ⟨rfl, rfl⟩
    · rename_i i _
      have hs : DrawsKept s (s.select i) := ⟨by simp, by simp⟩
      split_ifs
      · exact hs.trans (startCall_atHand c _).draws
      · exact hs
      · exact ⟨rfl, rfl⟩
  | driver i => exact onInstance_draws i _ driverStep_atHand s t h
  | reset => injection h with h; subst h; exact ⟨rfl, rfl⟩

/-- A step takes the oldest placed draw, if there is one, and advances the counter of the free draws. -/
theorem step_draws (s t : State) (h : step s = .next t) : t.inbox = s.inbox.tail ∧ t.tick = s.tick + 1 := by
  obtain ⟨u, hu, rfl⟩ := step_next_cases s t h
  have hd := (runEvent_draws _ _ _ hu).trans (settle_atHand u).draws
  exact ⟨hd.1, hd.2⟩

/-! Runs -/

theorem onInstance_answers (j : Nat) (f : State → Host.Outcome State Fault Refusal)
    (hf : ∀ s, ∃ t, f s = .next t) (s : State) : ∃ t, onInstance j f s = .next t := by
  rcases onInstance_cases j f s with ⟨_, h⟩ | ⟨_, h⟩ <;> rw [h]
  · exact hf _
  · exact ⟨s, rfl⟩

theorem exec_answers (i : Instr) (s : State) : ∃ t, exec i s = .next t :=
  (exec_cases i s).imp fun _ h => h.1

theorem issueHost_answers (w : ReqWord) (tmo : Tmo) (s : State) : ∃ t, issueHost w tmo s = .next t := by
  rcases issueHost_cases w tmo s with ⟨_, h⟩ | ⟨_, h⟩ <;> rw [h]
  · exact ⟨s, rfl⟩
  · rcases tryWord_cases .host w tmo (s.accept .host) with ⟨i, _, hi⟩ | ⟨e, _, he⟩
    · rw [hi]; exact exec_answers i _
    · exact ⟨_, he⟩

theorem issueDevice_answers (w : ReqWord) (s : State) : ∃ t, issueDevice w s = .next t := by
  rcases tryWord_cases .device w 0 (s.accept .device) with ⟨i, _, hi⟩ | ⟨e, _, he⟩
  · rw [issueDevice, hi]; exact exec_answers i _
  · exact ⟨_, he⟩

/-- Every event answers a next state. -/
theorem runEvent_answers (e : Event) (s : State) : ∃ t, runEvent e s = .next t := by
  cases e with
  | host i w tmo =>
    refine onInstance_answers i _ (fun s => ?_) s
    unfold hostWord
    split_ifs
    · exact ⟨s, rfl⟩
    · exact issueHost_answers w tmo s
  | device i w => exact onInstance_answers i _ (issueDevice_answers w) s
  | complete i =>
    refine onInstance_answers i _ (fun s => ?_) s
    rcases completeHeld_cases s with ⟨_, h⟩ | ⟨i, _, h⟩ <;> rw [h]
    · exact ⟨s, rfl⟩
    · exact exec_answers i _
  | sync i c => exact onInstance_answers i (fun t => .next (t.syncStep c)) (fun s => ⟨_, rfl⟩) s
  | timeout i => exact onInstance_answers i (fun t => .next t.timeoutStep) (fun s => ⟨_, rfl⟩) s
  | call portId c => exact ⟨_, rfl⟩
  | driver i =>
    refine onInstance_answers i _ (fun s => ?_) s
    rcases driverStep_cases s with h | ⟨q, r, _, _, h⟩ | ⟨q, i, _, _, _, h⟩ | ⟨q, _, h⟩ | ⟨res, _, h⟩ <;> rw [h]
    · exact ⟨_, rfl⟩
    · exact ⟨_, rfl⟩
    · exact issueHost_answers _ _ _
    · exact ⟨_, rfl⟩
    · exact ⟨_, rfl⟩
  | reset => exact ⟨_, rfl⟩

/-- A step by its event: the event's next state, settled. -/
theorem step_of_runEvent (s u : State) (h : runEvent s.draw.event s.taken = .next u) : step s = .next u.settle := by
  unfold step; rw [h]; rfl

/-- A run begins at every state. -/
theorem exists_run (s : State) : ∃ r, IsRun r ∧ r 0 = s := by
  have hstep : ∀ s, ∃ t, step s = .next t := fun s =>
    let ⟨u, hu⟩ := runEvent_answers s.draw.event s.taken
    ⟨_, step_of_runEvent s u hu⟩
  choose f hf using hstep
  exact ⟨fun n => Nat.rec s (fun _ t => f t) n, fun n => hf _, rfl⟩

theorem run_params (r : Run) (hr : IsRun r) (n : Nat) : (r n).params = (r 0).params := by
  induction n with
  | zero => rfl
  | succ n ih => exact (step_portwise _ _ (hr n)).1.trans ih

theorem run_nports (r : Run) (hr : IsRun r) (n : Nat) : (r n).nports = (r 0).nports := by
  induction n with
  | zero => rfl
  | succ n ih => exact (step_portwise _ _ (hr n)).2.1.trans ih

theorem run_curOk (r : Run) (hr : IsRun r) (h : (r 0).CurOk) (n : Nat) : (r n).CurOk := by
  induction n with
  | zero => exact h
  | succ n ih => exact (step_portwise _ _ (hr n)).2.2.1 ih

theorem run_tick (r : Run) (hr : IsRun r) (n : Nat) : (r n).tick = (r 0).tick + n := by
  induction n with
  | zero => rfl
  | succ n ih => rw [(step_draws _ _ (hr n)).2, ih, Nat.add_assoc]

/-- The placed draws of a run come to an end. -/
theorem run_inbox (r : Run) (hr : IsRun r) (n : Nat) : (r n).inbox = (r 0).inbox.drop n := by
  induction n with
  | zero => rfl
  | succ n ih => rw [(step_draws _ _ (hr n)).1, ih, List.tail_drop]

/-! The turns -/

theorem fairTurn_succ_zero (n j : Nat) (h : fairTurn n = (j, 0)) : fairTurn (n + 1) = (j + 1, Config.fairWait (j + 1)) := by
  simp [fairTurn, h]

theorem fairTurn_succ_wait (n j w : Nat) (h : fairTurn n = (j, w + 1)) : fairTurn (n + 1) = (j, w) := by
  simp [fairTurn, h]

/-- A turn that is next comes after its wait. -/
theorem fairTurn_comes (w n j : Nat) (h : fairTurn n = (j, w)) : fairTurn (n + w) = (j, 0) := by
  induction w generalizing n with
  | zero => exact h
  | succ w ih => rw [Nat.add_comm w 1, ← Nat.add_assoc]; exact ih (n + 1) (fairTurn_succ_wait n j w h)

/-- Every later turn comes too: none is waited for without end. -/
theorem fairTurn_all_come (n k : Nat) : ∃ m, n ≤ m ∧ fairTurn m = ((fairTurn n).1 + k, 0) := by
  induction k with
  | zero => exact ⟨_, Nat.le_add_right n (fairTurn n).2, fairTurn_comes _ n _ rfl⟩
  | succ k ih =>
    obtain ⟨m, hm, ht⟩ := ih
    have hs := fairTurn_succ_zero m _ ht
    exact ⟨_, Nat.le_trans hm (Nat.le_trans (Nat.le_succ m) (Nat.le_add_right _ _)), fairTurn_comes _ (m + 1) _ hs⟩

/-- Where no draw is placed and a turn has come, its event is the step's. -/
theorem draw_of_turn (s : State) (j : Nat) (h : s.inbox = []) (ht : fairTurn s.tick = (j, 0)) :
    s.draw.event = fairEvent s.nports j := by
  simp [State.draw, State.freeDraw, h, ht]

/-! A held request -/

/-- Instance i holds held, or else nothing, after a complete step that answered OK, a TMO step or a reset. -/
def Released (e : Event) (i : Nat) (t : State) : Prop :=
  ∃ o, t.ports[i]? = some o ∧ o.hreq = none ∧
    ((e = .complete i ∧ ∃ x, o.hRsp = some x ∧ rspStatus x = 0) ∨ e = .timeout i ∨ e = .reset)

/-- Moves of the instance at hand that keep its held request keep every instance's. -/
theorem AtHand.keeps_held {s t : State} (h : AtHand s t) (hc : s.CurOk) (i : Nat) (held : Instr)
    (hp : i = s.cur → s.port.hreq = some held → t.port.hreq = some held) (hs : s.HeldAt i held) : t.HeldAt i held := by
  obtain ⟨o, ho, hh⟩ := hs
  have hn : t.nports = s.nports := by unfold State.nports; rw [h.others]
  have ht : t.ports = ({ s with port := t.port } : State).ports := by simp only [State.ports, h.cur, h.others]
  by_cases hi : i = s.cur
  · subst hi
    rw [s.ports_cur hc] at ho
    injection ho with ho
    subst ho
    have hct : t.CurOk := by unfold State.CurOk; rw [hn, h.cur]; exact hc
    exact ⟨t.port, by rw [← h.cur]; exact t.ports_cur hct, hp rfl hh⟩
  · exact ⟨o, by rw [ht, s.ports_other t.port i hc hi, ho], hh⟩

theorem exec_keeps_hreq_device (i : Instr) (hi : i.legalOn .device = true) (s t : State) (h : exec i s = .next t) :
    t.port.hreq = s.port.hreq := by
  cases i with
  | nop => injection h with h; subst h; simp
  | txsvc => cases exec_move _ s t h <;> simp_all [Instr.legalOn, Instr.mayHold]
  | rxsvc b => cases exec_move _ s t h <;> simp_all [Instr.legalOn, Instr.mayHold]
  | enqTxNw _ => simp [Instr.legalOn] at hi
  | enqTxWf _ => simp [Instr.legalOn] at hi
  | enqTxWt _ _ => simp [Instr.legalOn] at hi
  | deqRxNw => simp [Instr.legalOn] at hi
  | deqRxWf => simp [Instr.legalOn] at hi
  | deqRxWt _ => simp [Instr.legalOn] at hi
  | armtx => simp [Instr.legalOn] at hi
  | armrx => simp [Instr.legalOn] at hi
  | ovfrd => simp [Instr.legalOn] at hi
  | ovfclr => simp [Instr.legalOn] at hi
  | lvlTx => simp [Instr.legalOn] at hi
  | lvlRx => simp [Instr.legalOn] at hi

/-- A word that decodes on port D is a request of port D (30_encoding R79). -/
theorem decode_device_legal (w : ReqWord) (tmo : Tmo) (i : Instr) (h : decode .device w tmo = .ok i) :
    i.legalOn .device = true := by
  unfold decode at h
  by_cases h1 : reqRsv w = true
  · rw [if_pos h1] at h; cases h
  by_cases h2 : reqPol w = 0b11
  · rw [if_neg h1, if_pos h2] at h; cases h
  rw [if_neg h1, if_neg h2] at h
  split at h
  case h_1 => unfold exactly at h; split_ifs at h; injection h with h; subst h; rfl
  case h_4 => unfold onPort exactly at h; split_ifs at h; injection h with h; subst h; rfl
  case h_5 => unfold onPort at h; split_ifs at h; injection h with h; subst h; rfl
  all_goals cases h

/-- A device word leaves hreq as it is (41_device_service R137). -/
theorem issueDevice_keeps_hreq (w : ReqWord) (s t : State) (h : issueDevice w s = .next t) : t.port.hreq = s.port.hreq := by
  rcases tryWord_cases .device w 0 (s.accept .device) with ⟨i, hd, hi⟩ | ⟨e, _, he⟩
  · rw [issueDevice, hi] at h
    simpa using exec_keeps_hreq_device i (decode_device_legal w 0 i hd) _ t h
  · rw [issueDevice, he] at h
    injection h with h
    subst h
    simp

/-- While a request is held, a host word, a host sequence's move and an API call leave the instance's hreq as it is
(40_queue_ops R116). -/
theorem hostWord_keeps_held (w : ReqWord) (tmo : Tmo) (held : Instr) (s t : State) (h : hostWord w tmo s = .next t)
    (hs : s.port.hreq = some held) : t = s := by
  unfold hostWord at h
  split_ifs at h
  · injection h with h; exact h.symm
  · rcases issueHost_cases w tmo s with ⟨_, hi⟩ | ⟨hn, _⟩
    · rw [hi] at h; injection h with h; exact h.symm
    · rw [hs] at hn; cases hn

theorem driverStep_keeps_held (held : Instr) (s t : State) (h : driverStep s = .next t)
    (hs : s.port.hreq = some held) : t = s := by
  rcases driverStep_cases s with hd | ⟨q, r, _, hn, _⟩ | ⟨q, i, _, hn, _, _⟩ | ⟨q, hn, _⟩ | ⟨res, hn, _⟩
  · rw [hd] at h; injection h with h; exact h.symm
  all_goals rw [hs] at hn; cases hn

/-- The complete step of a held request: still held where its condition is false, else answered OK (40_queue_ops R116). -/
theorem completeHeld_held (held : Instr) (hm : held.mayHold = true) (hw : held.wf = true) (s t : State)
    (h : completeHeld s = .next t) (hs : s.port.hreq = some held) :
    (s.canComplete held = false ∧ t.port.hreq = some held) ∨
    (t.port.hreq = none ∧ ∃ x, t.port.hRsp = some x ∧ rspStatus x = 0) := by
  have hok : ∀ d : Byte, rspStatus (response .ok d 0) = 0 := by decide
  unfold completeHeld at h
  rw [hs] at h
  cases held with
  | enqTxWf b =>
    rcases enqWith_cases (.enqTxWf b) .forever b { s with port := { s.port with hreq := none } } with
      ⟨_, h2⟩ | ⟨_, h1, _⟩ | ⟨h1, _, _, h2⟩
    · have h : Host.Outcome.next _ = .next t := h2.symm.trans h
      injection h with h; subst h; exact Or.inr ⟨rfl, _, rfl, hok 0⟩
    · rcases h1 with h1 | h1 <;> cases h1
    · have h : Host.Outcome.next _ = .next t := h2.symm.trans h
      injection h with h; subst h; exact Or.inl ⟨h1, rfl⟩
  | enqTxWt b n =>
    have hn : n ≠ 0 := by simpa [Instr.wf] using hw
    rcases enqWith_cases (.enqTxWt b n) (.upTo n) b { s with port := { s.port with hreq := none } } with
      ⟨_, h2⟩ | ⟨_, h1, _⟩ | ⟨h1, _, _, h2⟩
    · have h : Host.Outcome.next _ = .next t := h2.symm.trans h
      injection h with h; subst h; exact Or.inr ⟨rfl, _, rfl, hok 0⟩
    · rcases h1 with h1 | h1
      · cases h1
      · injection h1 with h1; exact absurd h1 hn
    · have h : Host.Outcome.next _ = .next t := h2.symm.trans h
      injection h with h; subst h; exact Or.inl ⟨h1, rfl⟩
  | deqRxWf =>
    rcases deqWith_cases .deqRxWf .forever { s with port := { s.port with hreq := none } } with
      ⟨_, h2⟩ | ⟨_, h1, _⟩ | ⟨h1, _, _, h2⟩
    · have h : Host.Outcome.next _ = .next t := h2.symm.trans h
      injection h with h; subst h; exact Or.inr ⟨rfl, _, rfl, hok _⟩
    · rcases h1 with h1 | h1 <;> cases h1
    · have h : Host.Outcome.next _ = .next t := h2.symm.trans h
      injection h with h; subst h; exact Or.inl ⟨h1, rfl⟩
  | deqRxWt n =>
    have hn : n ≠ 0 := by simpa [Instr.wf] using hw
    rcases deqWith_cases (.deqRxWt n) (.upTo n) { s with port := { s.port with hreq := none } } with
      ⟨_, h2⟩ | ⟨_, h1, _⟩ | ⟨h1, _, _, h2⟩
    · have h : Host.Outcome.next _ = .next t := h2.symm.trans h
      injection h with h; subst h; exact Or.inr ⟨rfl, _, rfl, hok _⟩
    · rcases h1 with h1 | h1
      · cases h1
      · injection h1 with h1; exact absurd h1 hn
    · have h : Host.Outcome.next _ = .next t := h2.symm.trans h
      injection h with h; subst h; exact Or.inl ⟨h1, rfl⟩
  | nop => cases hm
  | enqTxNw _ => cases hm
  | deqRxNw => cases hm
  | txsvc => cases hm
  | rxsvc _ => cases hm
  | armtx => cases hm
  | armrx => cases hm
  | ovfrd => cases hm
  | ovfclr => cases hm
  | lvlTx => cases hm
  | lvlRx => cases hm

theorem settle_keeps_held (s : State) (hc : s.CurOk) (i : Nat) (held : Instr) (hs : s.HeldAt i held) :
    s.settle.HeldAt i held :=
  (settle_atHand s).keeps_held hc i held (fun _ hp => by rw [State.settle_port]; split_ifs <;> simpa using hp) hs

/-- An event at instance j that keeps instance j's held request keeps every instance's. -/
theorem onInstance_keeps_held (j : Nat) (f : State → Host.Outcome State Fault Refusal)
    (hf : ∀ s t, f s = .next t → AtHand s t) (s t : State) (hc : s.CurOk) (i : Nat) (held : Instr)
    (hk : i = j → ∀ t, f (s.select j) = .next t → (s.select j).port.hreq = some held → t.port.hreq = some held)
    (h : onInstance j f s = .next t) (hs : s.HeldAt i held) : t.HeldAt i held := by
  rcases onInstance_cases j f s with ⟨hj, he⟩ | ⟨_, he⟩ <;> rw [he] at h
  · exact (hf _ _ h).keeps_held (s.select_curOk j hc) i held
      (fun hi hp => hk (hi.trans (s.select_spec j hj).2) t h hp) (by simpa [State.HeldAt] using hs)
  · injection h with h; subst h; exact hs

theorem select_held (s : State) (i : Nat) (held : Instr) (hs : s.HeldAt i held) :
    i < s.nports ∧ (s.select i).port.hreq = some held := by
  obtain ⟨o, ho, hh⟩ := hs
  have hi : i < s.nports := by rw [← s.length_ports]; exact (List.getElem?_eq_some_iff.1 ho).1
  rw [(s.select_spec i hi).1] at ho
  injection ho with ho
  exact ⟨hi, ho ▸ hh⟩

/-- The instance at hand after an event at it, settled. -/
theorem settled_port (u : State) (hc : u.CurOk) (i : Nat) (hi : u.cur = i) :
    ∃ o, u.settle.ports[i]? = some o ∧ o.hreq = u.port.hreq ∧ o.hRsp = u.port.hRsp := by
  have hcu : u.settle.CurOk := by
    have := (settle_atHand u).portwise.2.2.1
    exact this hc
  refine ⟨u.settle.port, ?_, ?_, ?_⟩
  · rw [← hi, ← State.settle_cur u]; exact State.ports_cur _ hcu
  · rw [State.settle_port]; split_ifs <;> simp
  · rw [State.settle_port]; split_ifs <;> simp

theorem canComplete_select_taken (s : State) (i : Nat) (held : Instr) (hi : i < s.nports) :
    (s.taken.select i).canComplete held = (s.select i).canComplete held := by
  have hp : (s.taken.select i).port = (s.select i).port := by
    have h1 := (s.taken.select_spec i hi).1
    have h2 := (s.select_spec i hi).1
    exact Option.some.inj (h1.symm.trans h2)
  have hq : (s.taken.select i).params = (s.select i).params := by simp
  cases held <;> simp [State.canComplete, State.txHasRoom, State.rxHasByte, hp]

/-- What a step can do to a held request: it stays held, and its condition was false if the step was its complete step; or it is
released, by a complete step that answered OK, a TMO step or a reset (40_queue_ops R116, 43_sync_steps R190). -/
theorem step_held (s t : State) (h : step s = .next t) (hc : s.CurOk) (i : Nat) (held : Instr)
    (hm : held.mayHold = true) (hw : held.wf = true) (hs : s.HeldAt i held) :
    (t.HeldAt i held ∧ (s.draw.event = .complete i → (s.select i).canComplete held = false)) ∨
    Released s.draw.event i t := by
  obtain ⟨u, hu, rfl⟩ := step_next_cases s t h
  have hct : s.taken.CurOk := hc
  have hst : s.taken.HeldAt i held := hs
  have hcu : u.CurOk := (runEvent_portwise _ _ _ hu).2.2.1 hct
  have keep : ∀ hne : s.draw.event ≠ .complete i, u.HeldAt i held →
      (u.settle.HeldAt i held ∧ (s.draw.event = .complete i → (s.select i).canComplete held = false)) ∨
      Released s.draw.event i u.settle :=
    fun hne hk => Or.inl ⟨settle_keeps_held u hcu i held hk, fun he => absurd he hne⟩
  obtain ⟨hi, hp⟩ := select_held s.taken i held hst
  cases he : s.draw.event with
  | host j w tmo =>
    rw [he] at hu keep
    exact keep (by simp) (onInstance_keeps_held j _ (hostWord_atHand w tmo) _ _ hct i held
      (fun _ t ht hh => by rw [hostWord_keeps_held w tmo held _ t ht hh]; exact hh) hu hst)
  | device j w =>
    rw [he] at hu keep
    exact keep (by simp) (onInstance_keeps_held j _ (issueDevice_atHand w) _ _ hct i held
      (fun _ t ht hh => by rw [issueDevice_keeps_hreq w _ t ht]; exact hh) hu hst)
  | driver j =>
    rw [he] at hu keep
    exact keep (by simp) (onInstance_keeps_held j _ driverStep_atHand _ _ hct i held
      (fun _ t ht hh => by rw [driverStep_keeps_held held _ t ht hh]; exact hh) hu hst)
  | sync j c =>
    rw [he] at hu keep
    refine keep (by simp) (onInstance_keeps_held j (fun t => .next (t.syncStep c))
      (fun a b hb => by injection hb with hb; exact hb ▸ syncStep_atHand c a) _ _ hct i held (fun _ t ht hh => ?_) hu hst)
    injection ht with ht
    subst ht
    rw [State.syncStep_port]
    split_ifs
    · exact hh
    · cases c <;> simpa [Port.cross] using hh
  | call portId c =>
    rw [he] at hu keep
    refine keep (by simp) ?_
    injection hu with hu
    subst hu
    unfold State.apiCall
    split
    · exact hst
    · rename_i j _
      have hsel : (s.taken.select j).HeldAt i held := by simpa [State.HeldAt] using hst
      split_ifs with h1 h2
      · refine (startCall_atHand c _).keeps_held (s.taken.select_curOk j hct) i held (fun _ hh => ?_) hsel
        simp [State.hostFree, hh] at h2
      · exact hsel
      · exact hst
  | complete j =>
    rw [he] at hu
    by_cases hij : i = j
    · subst hij
      rcases onInstance_cases i completeHeld s.taken with ⟨_, hx⟩ | ⟨hx, _⟩
      · have hu' : onInstance i completeHeld s.taken = .next u := hu
        rw [hx] at hu'
        have hcur : u.cur = i := (completeHeld_atHand _ _ hu').cur.trans (s.taken.select_spec i hi).2
        rcases completeHeld_held held hm hw _ u hu' hp with ⟨hf, hk⟩ | ⟨hn, hr⟩
        · refine Or.inl ⟨settle_keeps_held u hcu i held ⟨u.port, ?_, hk⟩, fun _ => ?_⟩
          · rw [← hcur]; exact u.ports_cur hcu
          · rw [← canComplete_select_taken s i held hi]; exact hf
        · obtain ⟨o, ho, h1, h2⟩ := settled_port u hcu i hcur
          exact Or.inr ⟨o, ho, h1.trans hn, Or.inl ⟨rfl, by rw [h2]; exact hr⟩⟩
      · exact absurd hi hx
    · have hne : Event.complete j ≠ .complete i := fun h => hij (by injection h with h; exact h.symm)
      rw [he] at keep
      exact keep hne (onInstance_keeps_held j _ completeHeld_atHand _ _ hct i held (fun h => absurd h hij) hu hst)
  | timeout j =>
    rw [he] at hu keep
    by_cases hij : i = j
    · subst hij
      rcases onInstance_cases i (fun t => .next t.timeoutStep) s.taken with ⟨_, hx⟩ | ⟨hx, _⟩
      · have hu' : onInstance i (fun t => .next t.timeoutStep) s.taken = .next u := hu
        rw [hx] at hu'
        injection hu' with hu'
        have hcur : u.cur = i := by
          rw [← hu']; exact (timeoutStep_atHand _).cur.trans (s.taken.select_spec i hi).2
        rcases timeoutStep_cases (s.taken.select i) with ht | ⟨_, st, _, _, _, _, ht⟩
        · refine keep (by simp) ⟨u.port, by rw [← hcur]; exact u.ports_cur hcu, ?_⟩
          rw [← hu', ht]; exact hp
        · obtain ⟨o, ho, h1, _⟩ := settled_port u hcu i hcur
          refine Or.inr ⟨o, ho, h1.trans ?_, Or.inr (Or.inl rfl)⟩
          rw [← hu', ht]; rfl
      · exact absurd hi hx
    · exact keep (by simp) (onInstance_keeps_held j (fun t => .next t.timeoutStep)
        (fun a b hb => by injection hb with hb; exact hb ▸ timeoutStep_atHand a) _ _ hct i held
        (fun h => absurd h hij) hu hst)
  | reset =>
    rw [he] at hu
    injection hu with hu
    subst hu
    have hall : s.taken.powerOn.AllPorts fun o => o.hreq = none := by
      intro o ho
      rw [State.mem_ports] at ho
      rcases ho with rfl | ho
      · rfl
      · obtain ⟨a, _, rfl⟩ := List.mem_map.1 ho
        rfl
    have hall' : s.taken.powerOn.settle.AllPorts fun o => o.hreq = none := by
      intro o ho
      rw [State.mem_ports] at ho
      rcases ho with rfl | ho
      · rw [State.settle_port]; split_ifs <;> rfl
      · exact hall o ((State.mem_ports _ _).2 (Or.inr (by simpa using ho)))
    have hin : i < s.taken.powerOn.settle.ports.length := by
      rw [State.length_ports, (settle_atHand _).portwise.2.1, (powerOn_portwise _).2.1]; exact hi
    exact Or.inr ⟨_, List.getElem?_eq_getElem hin, hall' _ (List.getElem_mem hin), Or.inr (Or.inr rfl)⟩

/-! ENV_RX -/

theorem decode_rxsvc (b : Byte) : decode .device (Instr.rxsvc b).encode.1 0 = .ok (.rxsvc b) := by
  revert b; unfold decode; decide

/-- An enabled RXSVC reads its byte, whether it stores or drops it, and leaves rx_ie (41_device_service R134, R135). -/
theorem execRxsvc_reads (b : Byte) (s t : State) (h : exec (.rxsvc b) s = .next t) (he : s.rxsvcEnabled b = true) :
    t.port.rxRead = s.port.rxRead ++ [b] ∧ t.port.rxIe = s.port.rxIe := by
  simp only [exec, execRxsvc, he, if_true] at h
  split_ifs at h <;> injection h with h <;> subst h <;> exact ⟨rfl, rfl⟩

/-- A byte that arrives while rx_ie = 1 is read in the next step. -/
theorem step_rxArrival (s t : State) (h : step s = .next t) (hc : s.CurOk) (i : Nat) (b : Byte) (rest : List Draw)
    (hin : s.inbox = rxArrivals i [b] ++ rest) (o : Port) (ho : s.ports[i]? = some o) (hie : o.rxIe = true) :
    ∃ o', t.ports[i]? = some o' ∧ o'.rxIe = true ∧ o'.rxRead = o.rxRead ++ [b] := by
  obtain ⟨u, hu, rfl⟩ := step_next_cases s t h
  have hd : s.draw = ⟨⟨false, true, b, false⟩, .device i (Instr.rxsvc b).encode.1⟩ := by
    simp [State.draw, hin, rxArrivals]
  have hi : i < s.taken.nports := by
    have hl := (List.getElem?_eq_some_iff.1 ho).1
    rw [State.length_ports] at hl
    exact hl
  have hp : (s.taken.select i).port = o := Option.some.inj ((s.taken.select_spec i hi).1.symm.trans ho)
  have hcu : u.CurOk := (runEvent_portwise _ _ _ hu).2.2.1 hc
  rw [hd] at hu
  rcases onInstance_cases i (issueDevice (Instr.rxsvc b).encode.1) s.taken with ⟨_, hx⟩ | ⟨hx, _⟩
  · have hu' : onInstance i (issueDevice (Instr.rxsvc b).encode.1) s.taken = .next u := hu
    rw [hx] at hu'
    have hcur : u.cur = i := (issueDevice_atHand _ _ _ hu').cur.trans (s.taken.select_spec i hi).2
    have hexec : exec (.rxsvc b) ((s.taken.select i).accept .device) = .next u := by
      unfold issueDevice tryWord at hu'
      rw [decode_rxsvc] at hu'
      exact hu'
    have hr := execRxsvc_reads b _ u hexec (by simp [State.rxsvcEnabled, hp, hie, hd])
    simp only [State.accept_port_rxRead, State.accept_port_rxIe, hp] at hr
    have hcs : u.settle.CurOk := (settle_atHand u).portwise.2.2.1 hcu
    refine ⟨u.settle.port, by rw [← hcur, ← State.settle_cur u]; exact State.ports_cur _ hcs, ?_, ?_⟩
    · rw [State.settle_port]; split_ifs <;> simp [hr.2, hie]
    · rw [State.settle_port]; split_ifs <;> simp [hr.1]
  · exact absurd hi hx

/-- The machine leaves the environment all that ENV_RX asks for: any sequence of bytes may arrive while rx_ie = 1
(43_sync_steps R191). -/
theorem State.envRx (s : State) (hc : s.CurOk) (i : Nat) : s.EnvRx i := by
  intro o ho hie bytes
  obtain ⟨r, hr, h0⟩ := exists_run { s with inbox := rxArrivals i bytes }
  have hc0 : (r 0).CurOk := by rw [h0]; exact hc
  have all : ∀ n, n ≤ bytes.length →
      ∃ o', (r n).ports[i]? = some o' ∧ o'.rxIe = true ∧ o'.rxRead = o.rxRead ++ bytes.take n := by
    intro n
    induction n with
    | zero => exact fun _ => ⟨o, by rw [h0]; exact ho, hie, by simp⟩
    | succ n ih =>
      intro hn
      obtain ⟨o₁, h1, h2, h3⟩ := ih (by omega)
      have hin : (r n).inbox = rxArrivals i [bytes[n]] ++ rxArrivals i (bytes.drop (n + 1)) := by
        rw [run_inbox r hr, h0]
        show (rxArrivals i bytes).drop n = _
        simp only [rxArrivals, ← List.map_drop, List.drop_eq_getElem_cons hn, List.map_cons, List.map_nil,
          List.cons_append, List.nil_append]
      obtain ⟨o₂, k1, k2, k3⟩ := step_rxArrival _ _ (hr n) (run_curOk r hr hc0 n) i _ _ hin o₁ h1 h2
      exact ⟨o₂, k1, k2, by rw [k3, h3, List.append_assoc, List.take_append_getElem hn]⟩
  obtain ⟨o', h1, _, h3⟩ := all bytes.length le_rfl
  exact ⟨r, hr, ⟨_, h0⟩, o', h1, by rw [h3, List.take_length]⟩

end Sys2Proof.Machine
end

