-- ==== Sys2Proof/Tests/Slice0.lean ====
section
/-! SUPPORT. The model's own tests: well-formedness, words written out from the spec's encoding, one step each from the vectors of
spec/95_test_vectors.md (named by their rows), and witnesses that meet the hypotheses of every statement. -/

namespace Sys2Proof.Tests

open Sys2Proof Sys2Proof.Machine

/-! ## Helpers -/

/-- Parameters for a K and a SYNC_STAGES, one port with identifier 1. -/
def pp (k : Fin 16) (ss : SyncStages) : Params := { k := k, sync := ss, portIds := [1] }

/-- SYNC_STAGES = 2. -/
def two : SyncStages := .chain 0

/-- The reset machine for a K and a SYNC_STAGES, its instance changed by f, with every input condition present. -/
def mk (k : Fin 16) (ss : SyncStages) (f : Port → Port) : State :=
  { (State.resetWith (pp k ss)).modPort f with
    inputs := { txReady := true, rxHasData := true, rxByte := 0x12, tmoExpired := true } }

/-- A queue with the given storage and pointers, its views as SYNC_STAGES = 0 keeps them. -/
def qq (k : Fin 16) (m : Memory) (w r : Ptr) : Queue :=
  { mem := m, wptr := w, rptr := r, wsync := grayOf (pp k .bypassed) w, rsync := grayOf (pp k .bypassed) r }

/-- The next state, or the machine after reset where there is none. -/
def nx (o : Host.Outcome State Fault Refusal) : State :=
  match o with
  | .next s => s
  | .fault _ => State.reset
  | .refused _ => State.reset

/-- Whether there is a next state. -/
def isNext (o : Host.Outcome State Fault Refusal) : Bool :=
  match o with
  | .next _ => true
  | .fault _ => false
  | .refused _ => false

theorem nx_of_isNext (o : Host.Outcome State Fault Refusal) (h : isNext o = true) : o = .next (nx o) := by
  cases o <;> simp_all [isNext, nx]

/-- What a decoder answers, with every reason for ILLEGAL read alike. -/
def dec (port : ReqPort) (w : ReqWord) (tmo : Tmo) : Option Instr :=
  match decode port w tmo with
  | .ok i => some i
  | .error _ => none

/-- A draw with every input condition present. -/
def draw (e : Event) : Draw :=
  { inputs := { txReady := true, rxHasData := true, rxByte := 0x55, tmoExpired := true }, event := e }

/-- The next step at s when the event is e. -/
def stepOn (e : Event) (s : State) : Host.Outcome State Fault Refusal := step { s with inbox := [draw e] }

/-! ## Well-formedness -/

theorem test_wf_wt_needs_timeout :
    Instr.wf (.enqTxWt 0x41 0) = false ∧ Instr.wf (.deqRxWt 0) = false ∧
    Instr.wf (.enqTxWt 0x41 1) = true ∧ Instr.wf (.deqRxWt 1) = true := by decide

theorem test_wf_params :
    Params.wf { k := 2, sync := .bypassed, portIds := [] } = false ∧
    Params.wf { k := 2, sync := .bypassed, portIds := [4, 4] } = false ∧
    Params.wf { k := 2, sync := .bypassed, portIds := [4, 5] } = true := by decide

/-! ## Decoding: the words of vectors 2.1, written out as OP POL Q RSV DATA -/

theorem test_decode_nop :
    dec .host 0b0000_00_0_0_00000000 0 = some .nop ∧ dec .device 0b0000_00_0_0_00000000 0 = some .nop ∧
    dec .host 0b0000_00_0_0_00000001 0 = none := by decide

theorem test_decode_enq :
    dec .host 0b0001_00_0_0_01000001 0 = some (.enqTxNw 0x41) ∧
    dec .host 0b0001_01_0_0_01000001 0 = some (.enqTxWf 0x41) ∧
    dec .host 0b0001_10_0_0_01000001 7 = some (.enqTxWt 0x41 7) ∧
    dec .host 0b0001_10_0_0_01000001 0 = some (.enqTxNw 0x41) := by decide

theorem test_decode_enq_illegal :
    dec .host 0x1C41 0 = none ∧ dec .host 0x1141 0 = none ∧ dec .host 0x1241 0 = none ∧
    dec .device 0x1041 0 = none := by decide

theorem test_decode_deq :
    dec .host 0b0010_00_1_0_00000000 0 = some .deqRxNw ∧ dec .host 0b0010_01_1_0_00000000 0 = some .deqRxWf ∧
    dec .host 0b0010_10_1_0_00000000 3 = some (.deqRxWt 3) ∧
    dec .host 0b0010_10_1_0_00000000 0 = some .deqRxNw := by decide

theorem test_decode_deq_illegal :
    dec .host 0x2000 0 = none ∧ dec .host 0x2201 0 = none ∧ dec .device 0x2200 0 = none := by decide

theorem test_decode_txsvc :
    dec .device 0b0011_00_0_0_00000000 0 = some .txsvc ∧ dec .host 0x3000 0 = none ∧ dec .device 0x3001 0 = none := by
  decide

theorem test_decode_rxsvc :
    dec .device 0b0100_00_1_0_01010101 0 = some (.rxsvc 0x55) ∧ dec .device 0x4055 0 = none ∧
    dec .device 0x4655 0 = none ∧ dec .host 0x4255 0 = none := by decide

theorem test_decode_armtx :
    dec .host 0b0101_00_0_0_00000000 0 = some .armtx ∧ dec .host 0x5200 0 = none ∧ dec .device 0x5000 0 = none := by
  decide

theorem test_decode_armrx : dec .host 0b0110_00_1_0_00000000 0 = some .armrx ∧ dec .host 0x6000 0 = none := by decide

theorem test_decode_ovf :
    dec .host 0b0111_00_1_0_00000000 0 = some .ovfrd ∧ dec .host 0b1000_00_1_0_00000000 0 = some .ovfclr ∧
    dec .device 0x8200 0 = none := by decide

theorem test_decode_lvl :
    dec .host 0b1001_00_0_0_00000000 0 = some .lvlTx ∧ dec .host 0b1001_00_1_0_00000000 0 = some .lvlRx ∧
    dec .host 0x9800 0 = none ∧ dec .host 0x9001 0 = none := by decide

theorem test_decode_reserved_op : dec .host 0xA000 0 = none ∧ dec .host 0xFFFF 0 = none ∧ dec .device 0xA200 0 = none := by
  decide

theorem test_encode_words :
    Instr.encode (.enqTxWt 0x41 7) = (0x1841, 7) ∧ Instr.encode .deqRxWf = (0x2600, 0) ∧
    Instr.encode (.rxsvc 0x55) = (0x4255, 0) ∧ Instr.encode .lvlRx = (0x9200, 0) := by decide

/-- The table's numbering: bits 15..0 the word, 47..16 the TMO, zero where 16 bits are given (log entry 7). -/
theorem test_table_words :
    decodeTableWord 16 0x3000 = some .txsvc ∧ decodeTableWord 16 0x1841 = some (.enqTxNw 0x41) ∧
    decodeTableWord 48 (0x1841 + 7 * 65536) = some (.enqTxWt 0x41 7) ∧ decodeTableWord 16 0x9800 = none := by decide

theorem test_response_word :
    response .dropped 0 0 = 0x00000004 ∧ response .ok 0xC3 0 = 0x0000C300 ∧ response .ok 0 4 = 0x00040000 ∧
    rspStatus 0x00007E02 = 2 ∧ rspData 0x00007E02 = 0x7E := by decide

/-! ## Operands: vectors 2.10 -/

theorem test_gray_codes :
    b2g 3 = 0b010 ∧ b2g 4 = 0b110 ∧ b2g 7 = 0b100 ∧ b2g 8 = 0b1100 ∧ b2g 15 = 0b1000 ∧ g2b 0b1000 = 15 := by decide

theorem test_memory_canonical :
    Memory.write (Memory.write (Memory.write [] 3 1) 0 2) 3 5 = [(0, 2), (3, 5)] ∧
    Memory.wf [(0, 2), (3, 5)] = true ∧ Memory.wf [(3, 5), (0, 2)] = false ∧ Memory.read [(0, 2), (3, 5)] 1 = none := by decide

/-! ## Queue transactions: vectors E, Q, V -/

theorem test_enq_nw_stores_and_does_not_arm :                                   -- E1, E11
    let t := nx (exec (.enqTxNw 0x41) (mk 2 .bypassed id))
    t.port.tx.mem = [(0, 0x41)] ∧ t.port.tx.wptr = 1 ∧ t.port.hRsp = some 0 ∧ t.port.txIe = false := by decide

theorem test_enq_nw_full_on_stale_view :                                        -- E7
    let t := nx (exec (.enqTxNw 0x55) (mk 2 two fun o => { o with tx := ⟨[], 4, 2, 0, 0b000⟩ }))
    t.port.tx = ⟨[], 4, 2, 0, 0b000⟩ ∧ t.port.hRsp = some 1 := by decide

theorem test_enq_wf_holds :                                                     -- E3
    let t := nx (exec (.enqTxWf 0x55) (mk 2 .bypassed fun o => { o with tx := qq 2 [] 4 0 }))
    t.port.hreq = some (.enqTxWf 0x55) ∧ t.port.hRsp = none ∧ t.port.tx = qq 2 [] 4 0 := by decide

theorem test_enq_wf_wraps :                                                     -- E5, as WF
    let t := nx (exec (.enqTxWf 0x99) (mk 2 .bypassed fun o => { o with tx := qq 2 [] 7 4 }))
    t.port.tx.mem = [(3, 0x99)] ∧ t.port.tx.wptr = 0 := by decide

theorem test_enq_wt_holds_then_times_out :                                      -- E9
    let t := nx (exec (.enqTxWt 0x55 9) (mk 2 .bypassed fun o => { o with tx := qq 2 [] 4 0 }))
    t.port.hreq = some (.enqTxWt 0x55 9) ∧ t.timeoutStep.port.hreq = none ∧ t.timeoutStep.port.hRsp = some 1 := by decide

theorem test_enq_wt_capacity_one :                                              -- E6, as WT
    let t := nx (exec (.enqTxWt 0x01 5) (mk 0 .bypassed id))
    t.port.tx.wptr = 1 ∧ (nx (exec (.enqTxNw 0x02) t.settle)).port.hRsp = some 1 := by decide

theorem test_deq_nw_wraps :                                                     -- Q5
    let t := nx (exec .deqRxNw (mk 2 .bypassed fun o => { o with rx := qq 2 [(3, 0xC3)] 0 7 }))
    t.port.hRsp = some 0x0000C300 ∧ t.port.rx.rptr = 0 := by decide

theorem test_deq_nw_empty_on_stale_view :                                       -- Q6
    let t := nx (exec .deqRxNw (mk 2 two fun o => { o with rx := ⟨[(0, 1), (1, 2)], 2, 0, 0, 0⟩ }))
    t.port.hRsp = some 2 ∧ t.port.rx.rptr = 0 := by decide

theorem test_deq_wf_holds :                                                     -- Q3
    let t := nx (exec .deqRxWf (mk 2 .bypassed id))
    t.port.hreq = some .deqRxWf ∧ t.port.hRsp = none := by decide

theorem test_deq_wf_leaves_ovf :                                                -- Q9, as WF
    let t := nx (exec .deqRxWf (mk 2 .bypassed fun o => { o with rx := qq 2 [(0, 0x10)] 1 0, ovf := true }))
    t.port.hRsp = some 0x00001000 ∧ t.port.ovf = true := by decide

theorem test_deq_wt_holds_then_times_out :                                      -- Q8, S8
    let t := nx (exec (.deqRxWt 4) (mk 2 .bypassed id))
    t.port.hreq = some (.deqRxWt 4) ∧ t.timeoutStep.port.hreq = none ∧ t.timeoutStep.port.hRsp = some 2 := by decide

theorem test_deq_wt_takes_byte :                                                -- L1.4's third read
    (nx (exec (.deqRxWt 4) (mk 2 .bypassed fun o => { o with rx := qq 2 [(0, 0x61), (1, 0x62), (2, 0x63)] 3 2 }))).port.hRsp
      = some 0x00006300 := by decide

theorem test_lvl_tx :                                                           -- V3, V5
    (nx (exec .lvlTx (mk 2 .bypassed fun o => { o with tx := qq 2 [] 4 0 }))).port.hRsp = some 0x00040000 ∧
    (nx (exec .lvlTx (mk 2 two fun o => { o with tx := ⟨[], 3, 3, 0, 0b001⟩ }))).port.hRsp = some 0x00020000 := by decide

theorem test_lvl_rx :                                                           -- V4, V6
    (nx (exec .lvlRx (mk 2 .bypassed fun o => { o with rx := qq 2 [] 1 6 }))).port.hRsp = some 0x00030000 ∧
    (nx (exec .lvlRx (mk 2 two fun o => { o with rx := ⟨[], 3, 0, 0b001, 0⟩ }))).port.hRsp = some 0x00010000 := by decide

theorem test_nop_on_each_port :                                                 -- V7
    (nx (exec .nop (mk 2 .bypassed id))).port.hRsp = some 0 ∧
    (nx (exec .nop ((mk 2 .bypassed id).accept .device))).port.dRsp = some 0 := by decide

/-! ## Device services: vectors T, X -/

theorem test_txsvc_emits_last_byte_and_stays_armed :                            -- T4
    let t := nx (exec .txsvc (mk 2 .bypassed fun o => { o with tx := qq 2 [(3, 0x5A)] 0 7, txIe := true }))
    t.port.txOut = [0x5A] ∧ t.port.tx.rptr = 0 ∧ t.port.txIe = true ∧ t.port.dRsp = some 0x00005A00 := by decide

theorem test_txsvc_stale_view_disarms :                                         -- T5
    let t := nx (exec .txsvc (mk 2 two fun o => { o with tx := ⟨[(0, 1), (1, 2)], 2, 0, 0, 0⟩, txIe := true, armReq := true }))
    t.port.txIe = false ∧ t.port.armReq = true ∧ t.port.txOut = [] ∧ t.port.dRsp = some 5 := by decide

theorem test_rxsvc_stores :                                                     -- X1
    let t := nx (exec (.rxsvc 0x12) (mk 2 .bypassed fun o => { o with rxIe := true }))
    t.port.rx.mem = [(0, 0x12)] ∧ t.port.rx.wptr = 1 ∧ t.port.dRsp = some 0 ∧ t.port.rxRead = [0x12] := by decide

theorem test_rxsvc_drops_on_stale_view :                                        -- X5
    let t := nx (exec (.rxsvc 0x12) (mk 2 two fun o => { o with rx := ⟨[], 4, 1, 0, 0⟩, rxIe := true }))
    t.port.ovf = true ∧ t.port.rx = ⟨[], 4, 1, 0, 0⟩ ∧ t.port.dRsp = some 4 ∧ t.port.rxRead = [0x12] := by decide

/-! ## Arms and flags: vectors A, O -/

theorem test_armtx_one_clock : (nx (exec .armtx (mk 2 .bypassed id))).port.txIe = true := by decide         -- A1

theorem test_armtx_two_clocks :                                                 -- A3
    let t := nx (exec .armtx (mk 2 two id))
    t.port.armReq = true ∧ t.port.txIe = false := by decide

theorem test_armrx : (nx (exec .armrx (mk 2 two id))).port.rxIe = true := by decide                          -- A7

theorem test_ovfrd_lags :                                                       -- O3, O4
    let s := mk 2 two fun o => { o with ovf := true }
    (nx (exec .ovfrd s)).port.hRsp = some 0 ∧ (nx (exec .ovfrd (s.syncStep .ovf))).port.hRsp = some 0x00000100 := by decide

theorem test_ovfclr_answers_exact_flag :                                        -- O7
    let t := nx (exec .ovfclr (mk 2 two fun o => { o with ovf := true }))
    t.port.hRsp = some 0x00000100 ∧ t.port.ovf = false ∧ t.port.ovfH = false := by decide

/-! ## Steps with no word: vectors S, A, E -/

theorem test_sync_txw :                                                         -- S1, A5
    let f (arm : Bool) (o : Port) : Port := { o with tx := ⟨[], 1, 0, 0, 0⟩, armReq := arm }
    let t := (mk 2 two (f true)).syncStep .txw
    t.port.tx.wsync = 0b001 ∧ t.port.txIe = true ∧ t.port.armReq = false ∧
    ((mk 2 two (f false)).syncStep .txw).port.txIe = false := by decide

theorem test_complete_held :                                                    -- E4
    let t := nx (completeHeld (mk 2 .bypassed fun o => { o with tx := qq 2 [] 4 1, hreq := some (.enqTxWf 0x55) }))
    t.port.tx.mem = [(0, 0x55)] ∧ t.port.tx.wptr = 5 ∧ t.port.hreq = none ∧ t.port.hRsp = some 0 := by decide

theorem test_forever_has_no_timeout :                                           -- S10
    let s := mk 2 .bypassed fun o => { o with hreq := some .deqRxWf }
    s.timeoutStep = s := by decide

theorem test_no_timeout_while_a_byte_is_seen :                                  -- R190 Enabled, R76
    let s := mk 2 two fun o => { o with rx := qq 2 [(0, 0x10)] 1 0, hreq := some (.deqRxWt 10) }
    s.timeoutStep = s := by decide

theorem test_step_illegal_word :                                                -- 2.1, 60_exceptions R242
    let t := nx (stepOn (.host 0 0x9800 0) State.reset)
    t.port.hRsp = some 3 ∧ t.port.illegalIssued = true ∧ t.port.tx = Queue.reset := by decide

theorem test_step_settles_one_clock :                                           -- E1 "(eager)"
    (nx (stepOn (.host 0 0x1041 0) State.reset)).port.tx.wsync = 0b001 := by decide

theorem test_step_of_table_word :                                               -- the host's question, row TXSVC
    (nx (step (State.reset.withFetchWord 16 0x3000))).port.dRsp = some 5 := by decide

/-! ## Host sequences: vectors H -/

theorem test_write_newline :                                                    -- H2, H3
    HostSeq.play .errAlways true 20 (List.replicate 4 0) (.write .forever [0x0A] 0 .start) =
      ([.enqTxWf 0x0D, .armtx, .enqTxWf 0x0A, .armtx], some (.count 1 [])) ∧
    HostSeq.play .errAlways false 20 (List.replicate 2 0) (.write .forever [0x0A] 0 .start) =
      ([.enqTxWf 0x0A, .armtx], some (.count 1 [])) := by decide

theorem test_getchar :                                                          -- H6, H7
    HostSeq.play .errAlways false 9 [0x00000002] (.read .noWait 1 []) = ([.deqRxNw], some (.count 0 [])) ∧
    HostSeq.play .errAlways false 9 [0x00003300] (.read .noWait 1 []) = ([.deqRxNw], some (.count 1 [0x33])) := by decide

theorem test_write_fail_modes :                                                 -- 44 R207
    writeFail .errAlways 2 = .err .ioError ∧ writeFail .partialCount 2 = .count 2 [] ∧
    writeFail .partialCount 0 = .err .ioError := by decide

theorem test_overflow_calls :                                                   -- H8, H9
    HostSeq.play .errAlways false 9 [0x00000100] .rxOverflow = ([.ovfrd], some (.flag true)) ∧
    HostSeq.play .errAlways false 9 [0x00000100] .clearRxOverflow = ([.ovfclr], some (.flag true)) := by decide

/-! ## Witnesses: concrete inputs that meet a statement's hypotheses together, clause by clause, at boundary values -/

theorem nx_exec (i : Instr) (s : State) (h : isNext (exec i s) = true) : exec i s = .next (nx (exec i s)) :=
  nx_of_isNext _ h

theorem nx_step (s : State) (h : isNext (step s) = true) : step s = .next (nx (step s)) := nx_of_isNext _ h

/-- TX and RX both holding a byte whose slot index wraps, armed for both services. -/
def busyPort (k : Fin 16) (m : Memory) (w r : Ptr) (o : Port) : Port :=
  { o with tx := qq k m w r, rx := qq k m w r, txIe := true, rxIe := true }

/-- An ENQ.TX.WF held on a given TX queue (K = 2) with tx_ie = 0 and arm_req = 0, at the event e. -/
def unarmedHold (ss : SyncStages) (q : Queue) (e : Event) : State :=
  { mk 2 ss (fun o => { o with tx := q, hreq := some (.enqTxWf 5) }) with inbox := [draw e] }

/-- A TX queue of which four bytes were dequeued, with TX.rsync not yet told: tcount = 0 and pcount = 4. -/
def drainedUnseen : Queue := ⟨[(0, 1), (1, 2), (2, 3), (3, 4)], 4, 4, 0b110, 0⟩

/-- Two port instances with K = 2, each with a byte in slot 3 of both queues, armed. -/
def duo (ss : SyncStages) (e : Event) : State :=
  { (State.resetWith { k := 2, sync := ss, portIds := [4, 5] }) with
    port := busyPort 2 [(3, 0x5A)] 0 7 Port.reset, others := [busyPort 2 [(3, 0x5A)] 0 7 Port.reset], inbox := [draw e] }

theorem witness_DecodeOfEncodeIsIdentity :
    (Instr.wf (.enqTxWt 0xFF 0xFFFFFFFF) = true ∧ Instr.legalOn (.enqTxWt 0xFF 0xFFFFFFFF) .host = true) ∧
    (Instr.wf (.deqRxWt 1) = true ∧ Instr.legalOn (.deqRxWt 1) .host = true) ∧
    (Instr.wf (.rxsvc 0x00) = true ∧ Instr.legalOn (.rxsvc 0x00) .device = true) := by decide

theorem witness_DecodedWordIsTheEncodedWord :
    (decode .host 0x18FF 1 = .ok (.enqTxWt 0xFF 1) ∧ reqPol 0x18FF = 0b10 ∧ (1 : Tmo) ≠ 0) ∧
    (decode .host 0x2600 0 = .ok .deqRxWf ∧ reqPol 0x2600 ≠ 0b10) ∧
    decode .host 0x2A00 0 = .ok .deqRxNw := ⟨⟨rfl, by decide, by decide⟩, ⟨rfl, by decide⟩, rfl⟩

theorem witness_ZeroTimeoutIsNoWait : reqPol 0x1C41 ≠ 0b10 ∧ reqPol 0x1441 ≠ 0b10 := by decide

theorem witness_MalformedWordsAreIllegal :
    10 ≤ (reqOp 0xA000).toNat ∧ 10 ≤ (reqOp 0xFFFF).toNat ∧ reqRsv 0x1141 = true ∧ reqPol 0x1C41 = 0b11 ∧
    (reqOp 0x0001 = 0x0 ∧ (0x0001 : ReqWord) ≠ 0x0000) ∧ (reqOp 0x1241 = 0x1 ∧ reqQ 0x1241 = true) ∧
    (reqOp 0x2000 = 0x2 ∧ reqQ 0x2000 = false) ∧ (reqOp 0x2201 = 0x2 ∧ reqData 0x2201 ≠ 0) ∧
    (reqOp 0x3001 = 0x3 ∧ (0x3001 : ReqWord) ≠ 0x3000) ∧ (reqOp 0x4055 = 0x4 ∧ reqQ 0x4055 = false) ∧
    (reqOp 0x4655 = 0x4 ∧ reqPol 0x4655 ≠ 0) ∧ (reqOp 0x5200 = 0x5 ∧ (0x5200 : ReqWord) ≠ 0x5000) ∧
    (reqOp 0x6000 = 0x6 ∧ (0x6000 : ReqWord) ≠ 0x6200) ∧ (reqOp 0x7000 = 0x7 ∧ (0x7000 : ReqWord) ≠ 0x7200) ∧
    (reqOp 0x8000 = 0x8 ∧ (0x8000 : ReqWord) ≠ 0x8200) ∧ (reqOp 0x9800 = 0x9 ∧ reqPol 0x9800 ≠ 0) ∧
    (reqOp 0x9001 = 0x9 ∧ reqData 0x9001 ≠ 0) := by decide

theorem witness_OtherPortsWordsAreIllegal :
    Instr.legalOn (.enqTxNw 0x41) .device = false ∧ Instr.legalOn (.rxsvc 0x55) .host = false ∧
    Instr.legalOn .txsvc .host = false := by decide

theorem witness_IllegalRequestAnswersOnly :
    (State.reset.port.hreq = none ∧ decode .host 0x9800 0 = .error .unusedFieldSet) ∧
    decode .device 0x1041 0 = .error .wrongPort := ⟨⟨rfl, rfl⟩, rfl⟩

theorem witness_NopAnswersOk :
    (reqOp 0x0001 = 0 ∧ (0x0001 : ReqWord) ≠ 0x0000) ∧ State.reset.reqPort = .host ∧
    (State.reset.accept .device).reqPort = .device := by decide

/-- Room for one byte only: C = 1 empty, the last free slot of C = 4, and the wrap of the widest pointer. -/
theorem witness_EnqStoresAndAdvances :
    IsEnq (.enqTxWt 0x41 0) 0x41 ∧
    (mk 0 .bypassed id).port.tx.pcount (pp 0 .bypassed) < (pp 0 .bypassed).cap ∧
    (let s := mk 2 .bypassed fun o => { o with tx := qq 2 [] 7 4 }
     s.port.tx.pcount s.params = 3 ∧ s.port.tx.pcount s.params < s.params.cap) ∧
    (let s := mk 15 .bypassed fun o => { o with tx := qq 15 [] 65535 32769 }
     s.port.tx.pcount s.params = 32766 ∧ s.port.tx.pcount s.params < s.params.cap) :=
  ⟨.inr (.inr ⟨_, rfl⟩), by decide, by decide, by decide⟩

theorem witness_EnqReportsFullOrHolds :
    (let s := mk 2 .bypassed fun o => { o with tx := qq 2 [] 4 0 }
     ¬ s.port.tx.pcount s.params < s.params.cap) ∧
    (let s := mk 0 two fun o => { o with tx := ⟨[], 1, 1, 1, 0⟩ }
     ¬ s.port.tx.pcount s.params < s.params.cap) ∧ (0xFFFFFFFF : Tmo) ≠ 0 := by decide

theorem witness_EnqFrame :
    (let s := mk 2 .bypassed fun o => { o with tx := qq 2 [(2, 1)] 7 4 }
     IsEnq (.enqTxNw 0x99) 0x99 ∧ exec (.enqTxNw 0x99) s = .next (nx (exec (.enqTxNw 0x99) s)) ∧
       (2 : Nat) ≠ slotOf s.params s.port.tx.wptr) ∧
    (let s := mk 2 .bypassed fun o => { o with tx := qq 2 [] 4 0 }
     exec (.enqTxNw 0x99) s = .next (nx (exec (.enqTxNw 0x99) s)) ∧ ¬ s.port.tx.pcount s.params < s.params.cap) :=
  ⟨⟨.inl rfl, nx_exec _ _ (by decide), by decide⟩, nx_exec _ _ (by decide), by decide⟩

/-- One byte to take, and the pointer at its wrap. -/
theorem witness_DeqReturnsOldestByte :
    IsDeq (.deqRxWt 0) ∧
    (let s := mk 2 .bypassed fun o => { o with rx := qq 2 [(3, 0xC3)] 0 7 }
     s.port.rx.ccount s.params = 1 ∧ 0 < s.port.rx.ccount s.params) ∧
    (let s := mk 15 .bypassed fun o => { o with rx := qq 15 [(32767, 0xC3)] 0 65535 }
     0 < s.port.rx.ccount s.params) := ⟨.inr (.inr ⟨_, rfl⟩), by decide, by decide⟩

theorem witness_DeqReportsEmptyOrHolds :
    (mk 2 .bypassed id).port.rx.ccount (pp 2 .bypassed) = 0 ∧
    (let s := mk 2 two fun o => { o with rx := ⟨[(0, 1), (1, 2)], 2, 0, 0, 0⟩ }
     s.port.rx.ccount s.params = 0) ∧ (1 : Tmo) ≠ 0 := by decide

theorem witness_DeqNoWaitOnEmptyAnswersAtOnce :
    let s := mk 2 two fun o => { o with rx := ⟨[(0, 1), (1, 2)], 2, 0, 0, 0⟩ }
    s.port.hreq = none ∧ s.port.rx.ccount s.params = 0 := by decide

theorem witness_DeqFrame :
    (let s := mk 2 .bypassed fun o => { o with rx := qq 2 [(3, 0xC3)] 0 7 }
     IsDeq .deqRxNw ∧ exec .deqRxNw s = .next (nx (exec .deqRxNw s))) ∧
    (let s := mk 2 .bypassed id
     IsDeq .deqRxWf ∧ exec .deqRxWf s = .next (nx (exec .deqRxWf s)) ∧ s.port.rx.ccount s.params = 0) :=
  ⟨⟨.inl rfl, nx_exec _ _ (by decide)⟩, .inr (.inl rfl), nx_exec _ _ (by decide), by decide⟩

theorem witness_TxsvcEmitsOrDisarms :
    (let s := mk 2 .bypassed fun o => { o with txIe := true }
     s.port.txIe = true ∧ s.inputs.txReady = true ∧ s.port.tx.ccount s.params = 0) ∧
    (let s := mk 2 .bypassed (busyPort 2 [(3, 0x5A)] 0 7)
     s.port.txIe = true ∧ s.inputs.txReady = true ∧ s.port.tx.ccount s.params ≠ 0) := by decide

theorem witness_RxsvcStoresOrDrops :
    (let s := mk 0 .bypassed (busyPort 0 [(0, 1)] 1 0)
     s.port.rxIe = true ∧ s.inputs.rxHasData = true ∧ s.inputs.rxByte = 0x12 ∧ s.port.rx.pcount s.params = s.params.cap) ∧
    (let s := mk 2 .bypassed (busyPort 2 [(3, 0x5A)] 7 4)
     s.port.rxIe = true ∧ s.inputs.rxHasData = true ∧ s.inputs.rxByte = 0x12 ∧ s.port.rx.pcount s.params ≠ s.params.cap) := by
  decide

theorem witness_DeviceServiceNotEnabledHasNoStep :
    (mk 2 .bypassed id).port.txIe = false ∧ State.reset.inputs.txReady = false ∧ (mk 2 .bypassed id).port.rxIe = false ∧
    State.reset.inputs.rxHasData = false ∧ (mk 2 .bypassed id).inputs.rxByte ≠ 0x13 := by decide

theorem witness_DeviceServiceFrames :
    (let s := mk 2 .bypassed (busyPort 2 [(3, 0x5A)] 0 7)
     exec .txsvc s = .next (nx (exec .txsvc s)) ∧ exec (.rxsvc 0x12) s = .next (nx (exec (.rxsvc 0x12) s)) ∧
       (3 : Nat) ≠ slotOf s.params s.port.rx.wptr) ∧
    (let s := mk 0 .bypassed (busyPort 0 [(0, 1)] 1 0)
     exec (.rxsvc 0x12) s = .next (nx (exec (.rxsvc 0x12) s)) ∧ s.port.rx.pcount s.params = s.params.cap) :=
  ⟨⟨nx_exec _ _ (by decide), nx_exec _ _ (by decide), by decide⟩, nx_exec _ _ (by decide), by decide⟩

theorem witness_DeviceServicesCommute :
    let s := mk 2 .bypassed (busyPort 2 [(3, 0x5A)] 0 7)
    ∃ t₁ t₂ u₁ u₂, exec .txsvc s = .next t₁ ∧ exec (.rxsvc 0x12) t₁ = .next t₂ ∧
      exec (.rxsvc 0x12) s = .next u₁ ∧ exec .txsvc u₁ = .next u₂ :=
  ⟨_, _, _, _, nx_exec _ _ (by decide), nx_exec _ _ (by decide), nx_exec _ _ (by decide), nx_exec _ _ (by decide)⟩

theorem witness_ArmtxArms : (mk 2 .bypassed id).params.sync = .bypassed ∧ (mk 2 two id).params.sync = .chain 0 := by decide

theorem witness_ArmtxIsIdempotent :
    (∃ t, exec .armtx (mk 2 .bypassed id) = .next t) ∧ (∃ t, exec .armtx (mk 2 two id) = .next t) :=
  ⟨⟨_, nx_exec _ _ (by decide)⟩, ⟨_, nx_exec _ _ (by decide)⟩⟩

theorem witness_FlagTransactionsFrame :
    (∃ t, exec .armtx (mk 2 two id) = .next t) ∧ (∃ t, exec .ovfclr (mk 2 two Port.setOvf) = .next t) ∧
    (∃ t, exec .nop ((mk 2 two id).accept .device) = .next t) ∧ ((mk 2 two id).accept .device).reqPort = .device ∧
    Instr.nop ∈ [Instr.armtx, .armrx, .ovfrd, .ovfclr, .lvlTx, .lvlRx, .nop] :=
  ⟨⟨_, nx_exec _ _ (by decide)⟩, ⟨_, nx_exec _ _ (by decide)⟩, ⟨_, nx_exec _ _ (by decide)⟩, by decide, by decide⟩

/-- Each of the changes the statement speaks of happens. -/
theorem witness_FlagSourcesAmongTransactions :
    (let s := mk 2 .bypassed id
     exec .armtx s = .next (nx (exec .armtx s)) ∧ (nx (exec .armtx s)).port.txIe ≠ s.port.txIe) ∧
    (let s := mk 2 .bypassed fun o => { o with txIe := true }
     exec .txsvc s = .next (nx (exec .txsvc s)) ∧ (nx (exec .txsvc s)).port.txIe ≠ s.port.txIe) ∧
    (let s := mk 2 two id
     exec .armtx s = .next (nx (exec .armtx s)) ∧ (nx (exec .armtx s)).port.armReq ≠ s.port.armReq) ∧
    (let s := mk 2 two id
     exec .armrx s = .next (nx (exec .armrx s)) ∧ (nx (exec .armrx s)).port.rxIe ≠ s.port.rxIe) ∧
    (let s := mk 0 .bypassed (busyPort 0 [(0, 1)] 1 0)
     exec (.rxsvc 0x12) s = .next (nx (exec (.rxsvc 0x12) s)) ∧ (nx (exec (.rxsvc 0x12) s)).port.ovf ≠ s.port.ovf) ∧
    (let s := mk 2 two fun o => { o with ovf := true, ovfH := true }
     exec .ovfclr s = .next (nx (exec .ovfclr s)) ∧ (nx (exec .ovfclr s)).port.ovf ≠ s.port.ovf ∧
       (nx (exec .ovfclr s)).port.ovfH ≠ s.port.ovfH) :=
  ⟨⟨nx_exec _ _ (by decide), by decide⟩, ⟨nx_exec _ _ (by decide), by decide⟩, ⟨nx_exec _ _ (by decide), by decide⟩,
    ⟨nx_exec _ _ (by decide), by decide⟩, ⟨nx_exec _ _ (by decide), by decide⟩, nx_exec _ _ (by decide), by decide⟩

theorem witness_OnlyWaitingRequestsHold :
    (let s := mk 2 .bypassed id
     exec .deqRxWf s = .next (nx (exec .deqRxWf s)) ∧ (nx (exec .deqRxWf s)).port.hreq ≠ s.port.hreq) ∧
    (let s := mk 2 .bypassed fun o => { o with tx := qq 2 [] 4 0 }
     exec (.enqTxNw 1) s = .next (nx (exec (.enqTxNw 1) s)) ∧ s.port.hRsp = none) ∧
    (let s := mk 2 .bypassed (busyPort 2 [(3, 0x5A)] 0 7)
     exec (.rxsvc 0x12) s = .next (nx (exec (.rxsvc 0x12) s)) ∧ s.port.rxIe = true ∧ s.inputs.rxHasData = true ∧
       s.inputs.rxByte = 0x12 ∧ s.port.dRsp = none) :=
  ⟨⟨nx_exec _ _ (by decide), by decide⟩, ⟨nx_exec _ _ (by decide), by decide⟩, nx_exec _ _ (by decide), by decide⟩

theorem witness_HeldRequestCompletes :
    (let s := mk 2 .bypassed fun o => { o with tx := qq 2 [] 4 1, hreq := some (.enqTxWf 0x55) }
     s.port.hreq = some (.enqTxWf 0x55) ∧ Instr.mayHold (.enqTxWf 0x55) = true ∧ Instr.wf (.enqTxWf 0x55) = true ∧
       s.canComplete (.enqTxWf 0x55) = true) ∧
    (let s := mk 2 .bypassed fun o => { o with hreq := some (.deqRxWt 1) }
     s.port.hreq = some (.deqRxWt 1) ∧ Instr.mayHold (.deqRxWt 1) = true ∧ Instr.wf (.deqRxWt 1) = true ∧
       s.canComplete (.deqRxWt 1) = false) := by decide

theorem witness_HeldRequestBlocksPort :
    (mk 2 .bypassed fun o => { o with hreq := some .deqRxWf }).port.hreq = some .deqRxWf := by decide

theorem witness_TimeoutEndsWait :
    (let s := mk 2 .bypassed fun o => { o with tx := qq 2 [] 4 0, hreq := some (.enqTxWt 0x55 10) }
     s.port.hreq = some (.enqTxWt 0x55 10) ∧ s.inputs.tmoExpired = true ∧ ¬ s.port.tx.pcount s.params < s.params.cap) ∧
    (let s := mk 2 .bypassed fun o => { o with tx := qq 2 [] 4 1, hreq := some (.enqTxWt 0x55 10) }
     s.port.hreq = some (.enqTxWt 0x55 10) ∧ s.inputs.tmoExpired = true ∧ s.port.tx.pcount s.params < s.params.cap) ∧
    (let s := mk 2 .bypassed fun o => { o with hreq := some (.deqRxWt 10) }
     s.port.hreq = some (.deqRxWt 10) ∧ s.inputs.tmoExpired = true ∧ s.port.rx.ccount s.params = 0) ∧
    (let s := mk 2 .bypassed fun o => { o with rx := qq 2 [(0, 0x10)] 1 0, hreq := some (.deqRxWt 10) }
     s.port.hreq = some (.deqRxWt 10) ∧ s.inputs.tmoExpired = true ∧ s.port.rx.ccount s.params ≠ 0) ∧
    (let s := mk 2 two fun o => { o with rx := qq 2 [(0, 0x10)] 1 0, hreq := some (.deqRxWt 10) }
     s.port.hreq = some (.deqRxWt 10) ∧ s.inputs.tmoExpired = true ∧ s.port.rx.ccount s.params ≠ 0) ∧
    (let s := mk 2 two fun o => { o with hreq := some (.enqTxWt 0x55 10) }
     s.port.hreq = some (.enqTxWt 0x55 10) ∧ s.inputs.tmoExpired = true ∧ s.port.tx.pcount s.params < s.params.cap) ∧
    State.reset.port.hreq = none ∧ State.reset.inputs.tmoExpired = false := by decide

theorem witness_SyncTxwPublishesPointerAndArm :
    (mk 2 two fun o => { o with armReq := true }).params.sync = .chain 0 ∧
    (mk 2 two fun o => { o with armReq := true }).port.armReq = true ∧ (mk 2 two id).port.armReq = false := by decide

/-- Vectors S2, S3 and S4 in one machine. -/
theorem witness_PointerCrossingsCopyGrayCode :
    let s := mk 2 two fun o => { o with tx := ⟨[], 3, 3, 0, 0b001⟩, rx := ⟨[], 4, 5, 0, 0⟩ }
    s.params.sync = .chain 0 ∧ s.params.k = 2 ∧ s.port.tx.rptr = 3 ∧ s.port.tx.rsync = 0b001 ∧ s.port.rx.wptr = 4 ∧
      s.port.rx.rptr = 5 := by decide

theorem witness_SyncOvfCopiesFlag : (mk 2 (.chain 1) Port.setOvf).params.sync = .chain 1 := by decide

theorem witness_SingleClockViewsFollowSources :
    let s := duo .bypassed (.host 1 0x1041 0)
    s.CurOk ∧ s.params.sync = .bypassed ∧ step s = .next (nx (step s)) ∧
      s.AllPorts (fun o => o.settled s.params = true ∧ o.armReq = false) :=
  ⟨by unfold State.CurOk; decide, by decide, nx_step _ (by decide), by unfold State.AllPorts; decide⟩

theorem witness_NeighbourGrayCodesDifferInOneBit :
    7 < (pp 2 two).span ∧ 1 < (pp 0 two).span ∧ 65535 < (pp 15 two).span := by decide

theorem witness_StepRunsTheDecodedRequest :
    (let s := duo two (.host 1 0x1041 0)
     1 < s.nports ∧ s.inbox = ⟨(draw .reset).inputs, .host 1 0x1041 0⟩ :: [] ∧ (s.taken.select 1).port.hreq = none ∧
       (s.taken.select 1).port.host.seq = none ∧ decode .host 0x1041 0 = .ok (.enqTxNw 0x41) ∧
       decode .host 0x9800 0 = .error .unusedFieldSet) ∧
    (let s := { duo two (.host 0 0x1041 0) with port := { Port.reset with hreq := some .deqRxWf } }
     0 < s.nports ∧ s.inbox = ⟨(draw .reset).inputs, .host 0 0x1041 0⟩ :: [] ∧ (s.taken.select 0).port.hreq ≠ none) ∧
    (let s := duo two (.device 1 0x4255)
     s.inbox = ⟨(draw .reset).inputs, .device 1 0x4255⟩ :: [] ∧ decode .device 0x4255 0 = .ok (.rxsvc 0x55) ∧
       decode .device 0x4055 0 = .error .wrongQueue) ∧
    (duo two (.sync 1 .txw)).inbox = ⟨(draw .reset).inputs, .sync 1 .txw⟩ :: [] ∧
    (duo two (.timeout 1)).inbox = ⟨(draw .reset).inputs, .timeout 1⟩ :: [] ∧
    (duo two (.complete 1)).inbox = ⟨(draw .reset).inputs, .complete 1⟩ :: [] ∧
    (duo two (.driver 1)).inbox = ⟨(draw .reset).inputs, .driver 1⟩ :: [] ∧
    (duo two (.call 9 .rxOverflow)).inbox = ⟨(draw .reset).inputs, .call 9 .rxOverflow⟩ :: [] ∧
    (duo two .reset).inbox = ⟨(draw .reset).inputs, .reset⟩ :: [] :=
  ⟨⟨by decide, rfl, by decide, by decide, rfl, rfl⟩, ⟨by decide, rfl, by decide⟩, ⟨rfl, rfl, rfl⟩, rfl, rfl, rfl, rfl, rfl, rfl⟩

theorem witness_PlacedWordIsTheNextRequest :
    State.reset.CurOk ∧ decodeTableWord 48 (0x18FF + 65536) = some (.enqTxWt 0xFF 1) ∧
    decodeTableWord 16 0x4255 = some (.rxsvc 0x55) := ⟨by unfold State.CurOk; decide, by decide, by decide⟩

/-- A run that begins with a held DEQ.RX.WF whose byte has come. -/
theorem witness_RunsGoOnAndAreFair :
    ∃ r : Run, IsRun r ∧ (r 0).CurOk ∧ 0 < (r 0).nports ∧ Instr.mayHold .deqRxWf = true ∧ Instr.wf .deqRxWf = true ∧
      (r 0).HeldAt 0 .deqRxWf ∧ ((r 0).select 0).canComplete .deqRxWf = true := by
  obtain ⟨r, hr, h0⟩ := exists_run (mk 2 .bypassed fun o => { o with rx := qq 2 [(0, 0x10)] 1 0, hreq := some .deqRxWf })
  refine ⟨r, hr, ?_⟩
  rw [h0]
  exact ⟨by unfold State.CurOk; decide, by decide, rfl, rfl, ⟨_, rfl, rfl⟩, by decide⟩

theorem witness_ResetLeavesTheSpecsValues :
    Port.reset ∈ (State.resetWith (pp 15 two)).ports ∧ (pp 15 two).wf = true := by decide

theorem witness_PowerOnResetAbandonsEverything : (duo two .reset).inbox = ⟨(draw .reset).inputs, .reset⟩ :: [] := rfl

/-- Counts 0 ≤ 1 ≤ 3 ≤ 4 under stale views, at an ENQ that fills the producer's view and at a DEQ. -/
def laggingState (e : Event) : State :=
  { (mk 2 two fun o => { o with
      tx := ⟨[(0, 1), (1, 2), (2, 3)], 3, 0, 0b001, 0⟩, rx := ⟨[(0, 1), (1, 2), (2, 3), (3, 4)], 4, 3, 0b110, 0⟩ }) with
    inbox := [draw e] }

theorem witness_OccupancyOrderKept :
    let s := laggingState (.host 0 0x1041 0)
    s.CurOk ∧ step s = .next (nx (step s)) ∧ s.AllPorts (fun o => o.tx.Ordered s.params ∧ o.rx.Ordered s.params) :=
  ⟨by unfold State.CurOk; decide, nx_step _ (by decide), by unfold State.AllPorts Queue.Ordered; decide⟩

theorem witness_StorageAndRegistersKeepForm :
    let s := laggingState (.host 0 0x1041 0)
    s.CurOk ∧ step s = .next (nx (step s)) ∧
    s.AllPorts (fun o => (o.tx.StorageOk s.params ∧ o.rx.StorageOk s.params) ∧
      (o.tx.InWidth s.params ∧ o.rx.InWidth s.params)) :=
  ⟨by unfold State.CurOk; decide, nx_step _ (by decide),
    by unfold State.AllPorts Queue.StorageOk Queue.InWidth; decide⟩

theorem witness_LiveSlotsStayWritten :
    let s := laggingState (.host 0 0x2200 0)
    s.CurOk ∧ step s = .next (nx (step s)) ∧
    s.AllPorts (fun o => (o.tx.Ordered s.params ∧ o.rx.Ordered s.params) ∧
      (o.tx.LiveWritten s.params ∧ o.rx.LiveWritten s.params)) ∧ 0 < s.port.rx.ccount s.params :=
  ⟨by unfold State.CurOk; decide, nx_step _ (by decide),
    by unfold State.AllPorts Queue.Ordered Queue.LiveWritten; decide, by decide⟩

theorem witness_HeldRequestStaysLegal :
    let s := { duo two (.complete 0) with port := { Port.reset with hreq := some (.deqRxWt 1) }, others := [Port.reset] }
    s.CurOk ∧ step s = .next (nx (step s)) ∧ s.AllPorts Port.HeldMayHold := by
  refine ⟨by unfold State.CurOk; decide, nx_step _ (by decide), ?_⟩
  intro o ho i hi
  rcases List.mem_cons.1 (show o ∈ [{ Port.reset with hreq := some (.deqRxWt 1) }, Port.reset] from ho) with rfl | ho
  · cases hi; decide
  · cases List.mem_singleton.1 ho; cases hi

theorem witness_OverflowViewNeverAhead :
    let s := { duo two (.sync 0 .ovf) with port := Port.reset.setOvf }
    s.CurOk ∧ step s = .next (nx (step s)) ∧ s.AllPorts (fun o => o.ovfH = true → o.ovf = true) :=
  ⟨by unfold State.CurOk; decide, nx_step _ (by decide), by unfold State.AllPorts; decide⟩

theorem witness_StickyThingsStay :
    (let s := duo two (.host 0 0x9800 0)
     step s = .next (nx (step s)) ∧ s.CurOk ∧ s.ports[1]? = some s.port ∧ s.draw.event ≠ .reset ∧ s.port.rxIe = true) ∧
    (let s := { duo two (.driver 0) with port := { Port.reset with
        hRsp := some 0, host := { HostRecord.reset with seq := some .init, awaiting := true } } }
     step s = .next (nx (step s)) ∧ s.CurOk ∧ s.port.host.initialized = false ∧
       (nx (step s)).port.host.initialized = true ∧ (nx (step s)).cur = s.cur) ∧
    (let s := duo two (.call 5 (.init 9600))
     step s = .next (nx (step s)) ∧ s.CurOk ∧ s.port.host.seq ≠ some .init ∧ (nx (step s)).cur = 1 ∧
       (nx (step s)).port.host.seq = some .init) ∧
    (let s := duo two (.call 5 (.setAutocrlf true))
     step s = .next (nx (step s)) ∧ s.CurOk ∧ (nx (step s)).cur = 1 ∧
       (nx (step s)).port.host.autocrlf ≠ s.port.host.autocrlf) :=
  ⟨⟨nx_step _ (by decide), by unfold State.CurOk; decide, by decide, by decide, by decide⟩,
    ⟨nx_step _ (by decide), by unfold State.CurOk; decide, by decide, by decide, by decide⟩,
    ⟨nx_step _ (by decide), by unfold State.CurOk; decide, by decide, by decide, by decide⟩,
    nx_step _ (by decide), by unfold State.CurOk; decide, by decide, by decide⟩

/-- A producer one short of full, and machines whose every live slot is to be kept. -/
theorem witness_LiveSlotsNeverOverwritten :
    let s := laggingState .reset
    s.port.tx.Ordered s.params ∧ s.port.rx.Ordered s.params ∧ s.port.tx.pcount s.params + 1 = s.params.cap ∧
      2 < s.port.tx.tcount s.params ∧ exec (.enqTxNw 9) s = .next (nx (exec (.enqTxNw 9) s)) :=
  ⟨by unfold Queue.Ordered; decide, by unfold Queue.Ordered; decide, by decide, by decide, nx_exec _ _ (by decide)⟩

theorem witness_QueuesAreFifo :
    let s := { laggingState .reset with port := { (laggingState .reset).port with txIe := true, rxIe := true } }
    (s.port.tx.Ordered s.params ∧ s.port.rx.Ordered s.params) ∧
    (s.port.tx.LiveWritten s.params ∧ s.port.rx.LiveWritten s.params) ∧
    (exec (.enqTxNw 9) s = .next (nx (exec (.enqTxNw 9) s)) ∧ s.port.tx.pcount s.params < s.params.cap) ∧
    (exec .txsvc s = .next (nx (exec .txsvc s)) ∧ s.txsvcEnabled = true ∧ s.port.tx.ccount s.params ≠ 0) ∧
    (exec .deqRxNw s = .next (nx (exec .deqRxNw s)) ∧ 0 < s.port.rx.ccount s.params) ∧
    (exec (.rxsvc 0x12) s = .next (nx (exec (.rxsvc 0x12) s)) ∧ s.rxsvcEnabled 0x12 = true ∧
      s.port.rx.pcount s.params = s.params.cap) ∧
    (let u := s.syncStep .rxr
     exec (.rxsvc 0x12) u = .next (nx (exec (.rxsvc 0x12) u)) ∧ u.rxsvcEnabled 0x12 = true ∧
      u.port.rx.pcount u.params ≠ u.params.cap) :=
  ⟨by unfold Queue.Ordered; decide, by unfold Queue.LiveWritten; decide, ⟨nx_exec _ _ (by decide), by decide⟩,
    ⟨nx_exec _ _ (by decide), by decide⟩, ⟨nx_exec _ _ (by decide), by decide⟩, ⟨nx_exec _ _ (by decide), by decide⟩,
    nx_exec _ _ (by decide), by decide⟩

theorem witness_CapacityEnqueuesComplete :
    (let s := mk 0 two id
     s.port.tx.pcount s.params = 0 ∧ [Instr.enqTxWf 1].length = s.params.cap) ∧
    (let s := mk 1 .bypassed fun o => { o with tx := qq 1 [] 3 3 }
     s.port.tx.pcount s.params = 0 ∧ [Instr.enqTxWt 1 5, .enqTxNw 2].length = s.params.cap) ∧
    (∀ i, i ∈ [Instr.enqTxWt 1 5, .enqTxNw 2] → ∃ b, IsEnq i b) := by
  refine ⟨by decide, by decide, fun i hi => ?_⟩
  rcases List.mem_cons.1 hi with rfl | hi
  · exact ⟨1, .inr (.inr ⟨_, rfl⟩)⟩
  · exact ⟨2, .inl (List.mem_singleton.1 hi)⟩

/-- A TXSVC in each clock configuration: the byte is taken with the interrupt armed; a stale view with an arm pending. -/
theorem witness_ArmCoverageKept :
    (let s := duo .bypassed (.device 0 0x3000)
     s.CurOk ∧ step s = .next (nx (step s)) ∧ s.ports[0]? = some s.port ∧
       (nx (step s)).ports[0]? = some (nx (step s)).port ∧ s.port.tx.Ordered s.params ∧ s.port.settled s.params = true ∧
       s.port.ArmCovered s.params ∧ (nx (step s)).port.tx.wptr = s.port.tx.wptr) ∧
    (let s := { laggingState (.device 0 0x3000) with
        port := { (laggingState .reset).port with tx := ⟨[(0, 1)], 1, 0, 0, 0⟩, txIe := true, armReq := true } }
     s.CurOk ∧ step s = .next (nx (step s)) ∧ s.ports[0]? = some s.port ∧
       (nx (step s)).ports[0]? = some (nx (step s)).port ∧ s.port.tx.Ordered s.params ∧ s.params.sync ≠ .bypassed ∧
       s.port.ArmCovered s.params ∧ (nx (step s)).port.tx.wptr = s.port.tx.wptr) :=
  ⟨⟨by unfold State.CurOk; decide, nx_step _ (by decide), by decide, by decide, by unfold Queue.Ordered; decide, by decide,
      by unfold Port.ArmCovered; decide, by decide⟩,
    by unfold State.CurOk; decide, nx_step _ (by decide), by decide, by decide, by unfold Queue.Ordered; decide, by decide,
      by unfold Port.ArmCovered; decide, by decide⟩

/-- A full queue in truth, at its complete step; no room as an old view shows it, and a full queue with SYNC_STAGES = 0, each at
its complete step; a current view at full; and the invariant of a host that keeps R280. -/
theorem witness_FullAndUnarmedWaitsForever :
    (let s := unarmedHold two ⟨[(0, 1), (1, 2), (2, 3), (3, 4)], 4, 0, 0, 0⟩ (.complete 0)
     s.CurOk ∧ step s = .next (nx (step s)) ∧ s.draw.event ≠ .reset ∧ s.ports[0]? = some s.port ∧
      (nx (step s)).ports[0]? = some (nx (step s)).port ∧ s.port.hreq = some (.enqTxWf 5) ∧ s.port.txIe = false ∧
      s.port.armReq = false ∧ s.port.StuckFull s.params 5) ∧
    (let s := unarmedHold two drainedUnseen (.complete 0)
     s.CurOk ∧ step s = .next (nx (step s)) ∧ s.draw.event ≠ .reset ∧ s.draw.event ≠ .sync 0 .txr ∧
      s.ports[0]? = some s.port ∧ (nx (step s)).ports[0]? = some (nx (step s)).port ∧ s.port.hreq = some (.enqTxWf 5) ∧
      s.port.txIe = false ∧ s.port.armReq = false ∧ ¬ s.port.tx.pcount s.params < s.params.cap) ∧
    (let s := unarmedHold .bypassed (qq 2 [(0, 1), (1, 2), (2, 3), (3, 4)] 4 0) (.complete 0)
     s.CurOk ∧ step s = .next (nx (step s)) ∧ s.draw.event ≠ .reset ∧ s.params.sync = .bypassed ∧
      s.ports[0]? = some s.port ∧ (nx (step s)).ports[0]? = some (nx (step s)).port ∧ s.port.hreq = some (.enqTxWf 5) ∧
      s.port.txIe = false ∧ s.port.armReq = false ∧ ¬ s.port.tx.pcount s.params < s.params.cap ∧
      s.port.tx.rsync = grayOf s.params s.port.tx.rptr) ∧
    (let s := unarmedHold two ⟨[(0, 1), (1, 2), (2, 3), (3, 4)], 4, 0, 0, 0⟩ (.complete 0)
     s.port.tx.Ordered s.params ∧ s.port.tx.rsync = grayOf s.params s.port.tx.rptr ∧
      ¬ s.port.tx.pcount s.params < s.params.cap) ∧
    (busyPort 2 [(3, 0x5A)] 0 7 Port.reset).ArmCovered (pp 2 two) :=
  ⟨⟨by unfold State.CurOk; decide, nx_step _ (by decide), by decide, by decide, by decide, by decide, by decide, by decide,
    by unfold Port.StuckFull Queue.Ordered; decide⟩,
    ⟨by unfold State.CurOk; decide, nx_step _ (by decide), by decide, by decide, by decide, by decide, by decide, by decide,
      by decide, by decide⟩,
    ⟨by unfold State.CurOk; decide, nx_step _ (by decide), by decide, by decide, by decide, by decide, by decide, by decide,
      by decide, by decide, by decide⟩,
    ⟨by unfold Queue.Ordered; decide, by decide, by decide⟩, by unfold Port.ArmCovered; decide⟩

/-- An ENQ.TX.WF held on an old TX.rsync after a TXSVC that found the queue empty (40_queue_ops R103): R282's invariant holds and
nothing is armed; the complete step leaves it held (R116), and after a SYNC.TXR (43_sync_steps R183) it answers OK (R116). -/
theorem test_holdOnOldViewEnds :
    let s := { unarmedHold two drainedUnseen .reset with
      port := { (unarmedHold two drainedUnseen .reset).port with txIe := true, hreq := none } }
    let idle := nx (stepOn (.device 0 0x3000) s)
    let held := nx (stepOn (.host 0 (Instr.enqTxWf 5).encode.1 0) idle)
    let seen := nx (stepOn (.sync 0 .txr) held)
    held.port.tx.tcount held.params = 0 ∧ (held.port.txIe || held.port.armReq) = false ∧
    held.port.hreq = some (.enqTxWf 5) ∧ (nx (stepOn (.complete 0) held)).port.hreq = some (.enqTxWf 5) ∧
    (nx (stepOn (.complete 0) seen)).port.hreq = none ∧
    (nx (stepOn (.complete 0) seen)).port.hRsp = some 0x00000000 := by decide

theorem witness_EventTouchesOneInstance :
    (let s := duo two (.sync 0 .txw)
     s.CurOk ∧ step s = .next (nx (step s)) ∧ 0 < s.nports ∧ s.draw.event = .sync 0 .txw ∧ s.ports[1]?.isSome = true) ∧
    (let s := duo two (.call 5 (.init 9600))
     s.CurOk ∧ step s = .next (nx (step s)) ∧ s.draw.event = .call 5 (.init 9600) ∧ lookupPort s.params 5 = some 1 ∧
       1 < s.nports ∧ s.ports[0]?.isSome = true) ∧
    (let s := duo .bypassed (.call 9 (.init 9600))
     s.CurOk ∧ step s = .next (nx (step s)) ∧ s.draw.event = .call 9 (.init 9600) ∧ lookupPort s.params 9 = none ∧
       s.params.sync = .bypassed ∧ s.port.settled s.params = true) :=
  ⟨⟨by unfold State.CurOk; decide, nx_step _ (by decide), by decide, by decide, by decide⟩,
    ⟨by unfold State.CurOk; decide, nx_step _ (by decide), by decide, by decide, by decide, by decide⟩,
    by unfold State.CurOk; decide, nx_step _ (by decide), by decide, by decide, by decide, by decide⟩

theorem witness_ApiGuardsIssueNothing :
    let s := duo two .reset
    (∀ x, x ∈ s.params.portIds → x ≠ 9) ∧
    (lookupPort s.params 5 = some 1 ∧ 1 < s.nports ∧ (s.select 1).hostFree = true ∧
      (s.select 1).port.host.awaiting = false ∧ (s.select 1).port.host.initialized = false) := by decide

theorem witness_InitEnablesReceive : State.reset.hostFree = true := by decide

theorem witness_SequencePresentsItsTransactions :
    (let s := mk 2 two fun o => { o with
       hreq := some (.enqTxWf 1), host := { o.host with seq := some .init, awaiting := true } }
     s.port.host.seq = some .init ∧ s.port.hreq ≠ none) ∧
    (let s := mk 2 two fun o => { o with host := { o.host with seq := some (.read .forever 1 []) } }
     s.port.host.seq = some (.read .forever 1 []) ∧ s.port.hreq = none ∧ s.port.host.awaiting = false ∧
       HostSeq.move s.port.host.autocrlf (.read .forever 1 []) = .issue .deqRxWf) ∧
    (let s := mk 2 two fun o => { o with host := { o.host with seq := some .init, awaiting := true } }
     s.port.host.seq = some .init ∧ s.port.hreq = none ∧ s.port.host.awaiting = true ∧ s.port.hRsp = none) := by decide

theorem witness_WriteIssuesPutsInOrder : ∀ r, r ∈ List.replicate 4 (0x00000000 : RspWord) → r = 0x00000000 :=
  fun _ hr => List.eq_of_mem_replicate hr

theorem witness_ReadStopsAtEmptyOrMax : [(0x61 : Byte)].length < 2 ∧ ([] : List Byte).length = 0 := by decide

end Sys2Proof.Tests
end

section
/-! What a step takes back and what it does not, instance by instance: rx_ie under each agent's step, then one record of the sticky
state that every event keeps (00_scope R7 to R9, 10_state R34, R36, 60_exceptions R242, 70_reset_and_hazards R273). -/

namespace Sys2Proof.Machine

/-! The receive enable: no step of the block, no move of a host sequence and no call clears it (10_state R34) -/

theorem exec_keeps_rxIe (i : Instr) (s t : State) (h : exec i s = .next t) (hr : s.port.rxIe = true) :
    t.port.rxIe = true := by
  cases exec_move i s t h <;> simp [hr]

theorem tryWord_keeps_rxIe (r : ReqPort) (w : ReqWord) (tmo : Tmo) (s t : State) (h : tryWord r w tmo s = .next t)
    (hr : s.port.rxIe = true) : t.port.rxIe = true := by
  rcases tryWord_cases r w tmo s with ⟨i, _, hi⟩ | ⟨_, _, he⟩
  · exact exec_keeps_rxIe i s t (hi ▸ h) hr
  · rw [he] at h; injection h with h; subst h; simp [hr]

theorem issueHost_keeps_rxIe (w : ReqWord) (tmo : Tmo) (s t : State) (h : issueHost w tmo s = .next t)
    (hr : s.port.rxIe = true) : t.port.rxIe = true := by
  rcases issueHost_cases w tmo s with ⟨_, hi⟩ | ⟨_, hi⟩ <;> rw [hi] at h
  · injection h with h; exact h ▸ hr
  · exact tryWord_keeps_rxIe _ _ _ _ _ h (by simpa using hr)

theorem hostWord_keeps_rxIe (w : ReqWord) (tmo : Tmo) (s t : State) (h : hostWord w tmo s = .next t)
    (hr : s.port.rxIe = true) : t.port.rxIe = true := by
  unfold hostWord at h
  split_ifs at h
  · injection h with h; exact h ▸ hr
  · exact issueHost_keeps_rxIe _ _ _ _ h hr

theorem issueDevice_keeps_rxIe (w : ReqWord) (s t : State) (h : issueDevice w s = .next t)
    (hr : s.port.rxIe = true) : t.port.rxIe = true :=
  tryWord_keeps_rxIe _ _ _ _ _ h (by simpa using hr)

theorem completeHeld_keeps_rxIe (s t : State) (h : completeHeld s = .next t) (hr : s.port.rxIe = true) :
    t.port.rxIe = true := by
  rcases completeHeld_cases s with ⟨_, hi⟩ | ⟨i, _, hi⟩ <;> rw [hi] at h
  · injection h with h; exact h ▸ hr
  · exact exec_keeps_rxIe i _ t h hr

@[simp] theorem timeoutStep_rxIe (s : State) : s.timeoutStep.port.rxIe = s.port.rxIe := by
  rcases timeoutStep_cases s with h | ⟨_, _, _, _, _, _, h⟩
  · rw [h]
  · rw [h]; simp

@[simp] theorem syncStep_rxIe (c : Crossing) (s : State) : (s.syncStep c).port.rxIe = s.port.rxIe := by
  rw [State.syncStep_port]
  split_ifs
  · rfl
  · cases c <;> rfl

@[simp] theorem settle_rxIe (s : State) : s.settle.port.rxIe = s.port.rxIe := by
  rw [State.settle_port]; split_ifs <;> simp

@[simp] theorem takeResponse_rxIe (q : HostSeq) (r : RspWord) (s : State) :
    (s.takeResponse q r).port.rxIe = s.port.rxIe := by
  unfold State.takeResponse
  split <;> simp

theorem driverStep_keeps_rxIe (s t : State) (h : driverStep s = .next t) (hr : s.port.rxIe = true) :
    t.port.rxIe = true := by
  rcases driverStep_cases s with hd | ⟨q, r, _, _, hd⟩ | ⟨q, i, _, _, _, hd⟩ | ⟨q, _, hd⟩ | ⟨res, _, hd⟩ <;> rw [hd] at h
  · injection h with h; exact h ▸ hr
  · injection h with h; subst h; simp [hr]
  · exact issueHost_keeps_rxIe _ _ _ _ h (by simpa using hr)
  · injection h with h; subst h; simp [hr]
  · injection h with h; subst h; simp [hr]

@[simp] theorem guarded_rxIe (q : HostSeq) (s : State) : (s.guarded q).port.rxIe = s.port.rxIe := by
  unfold State.guarded
  split_ifs <;> simp

@[simp] theorem startCall_rxIe (c : ApiCall) (s : State) : (s.startCall c).port.rxIe = s.port.rxIe := by
  cases c <;> simp [State.startCall]

/-! The sticky state of one instance -/

/-- What event e may do to the sticky state of instance j, which it takes from o to o'. -/
structure StickyKept (p : Params) (e : Event) (j : Nat) (o o' : Port) : Prop where
  rxIe : e ≠ .reset → o.rxIe = true → o'.rxIe = true
  initialized : e ≠ .reset → o.host.initialized = true → o'.host.initialized = true
  initEnds : o.host.initialized = false → o'.host.initialized = true → e = .driver j ∧ o.host.seq = some .init
  initBegins : o.host.seq ≠ some .init → o'.host.seq = some .init →
    ∃ portId baud, e = .call portId (.init baud) ∧ lookupPort p portId = some j
  autocrlf : o'.host.autocrlf ≠ o.host.autocrlf → e = .reset ∨
    ∃ portId, e = .call portId (.setAutocrlf o'.host.autocrlf) ∧ lookupPort p portId = some j

/-- The block's own steps write nothing of the host record (10_state R36), so they need keep rx_ie only. -/
theorem StickyKept.of_host_eq {p : Params} {e : Event} {j : Nat} {o o' : Port} (hr : o.rxIe = true → o'.rxIe = true)
    (hh : o'.host = o.host) : StickyKept p e j o o' where
  rxIe _ := hr
  initialized _ hi := by rw [hh]; exact hi
  initEnds hn hi := by rw [hh, hn] at hi; cases hi
  initBegins hn hi := absurd (hh ▸ hi) hn
  autocrlf hn := absurd (by rw [hh]) hn

theorem StickyKept.refl (p : Params) (e : Event) (j : Nat) (o : Port) : StickyKept p e j o o := .of_host_eq id rfl

/-- A change that keeps rx_ie and the host record, as the eager sync is, may follow. -/
theorem StickyKept.trans_host_eq {p : Params} {e : Event} {j : Nat} {o o' o'' : Port} (h : StickyKept p e j o o')
    (hr : o''.rxIe = o'.rxIe) (hh : o''.host = o'.host) : StickyKept p e j o o'' where
  rxIe := by rw [hr]; exact h.rxIe
  initialized := by rw [hh]; exact h.initialized
  initEnds := by rw [hh]; exact h.initEnds
  initBegins := by rw [hh]; exact h.initBegins
  autocrlf := by rw [hh]; exact h.autocrlf

/-- A move of the host sequence ends an init or leaves initialized, and begins none (44_host_sequences R202). -/
theorem driverStep_sticky (p : Params) (j : Nat) (s t : State) (h : driverStep s = .next t) :
    StickyKept p (.driver j) j s.port t.port := by
  obtain ⟨hcrlf, hinit, hseq⟩ := driverStep_host s t h
  refine ⟨fun _ => driverStep_keeps_rxIe s t h, fun _ hi => ?_, fun hn hi => ⟨rfl, ?_⟩,
    fun hn hi => absurd (hseq hi) hn, fun hn => absurd hcrlf hn⟩
  · rcases hinit with he | ⟨ht, _⟩
    · exact he.trans hi
    · exact ht
  · rcases hinit with he | ⟨_, hs⟩
    · rw [he, hn] at hi; cases hi
    · exact hs

/-- A call to instance j keeps initialized; only init begins an init and only set_autocrlf writes autocrlf
(44_host_sequences R202, R203). -/
theorem startCall_sticky (p : Params) (portId j : Nat) (hl : lookupPort p portId = some j) (c : ApiCall) (s : State) :
    StickyKept p (.call portId c) j s.port (s.startCall c).port := by
  obtain ⟨hinit, hseq, hcrlf⟩ := startCall_host c s
  refine ⟨fun _ hr => by simpa using hr, fun _ hi => hinit.trans hi, fun hn hi => ?_, fun _ hi => ?_, fun hn => ?_⟩
  · rw [hinit, hn] at hi; cases hi
  · obtain ⟨baud, rfl⟩ := hseq hi
    exact ⟨portId, baud, rfl, hl⟩
  · exact .inr ⟨portId, by rw [← hcrlf hn], hl⟩

theorem powerOn_sticky (p : Params) (j : Nat) (o : Port) : StickyKept p .reset j o o.powerOn where
  rxIe hn := absurd rfl hn
  initialized hn := absurd rfl hn
  initEnds _ hi := by cases hi
  initBegins _ hi := by cases hi
  autocrlf _ := .inl rfl

/-! Instance by instance -/

/-- Event e, taken from s to t, keeps the sticky state of every instance. -/
def StickyPortwise (e : Event) (s t : State) : Prop :=
  ∀ (j : Nat) (o o' : Port), s.ports[j]? = some o → t.ports[j]? = some o' → StickyKept s.params e j o o'

theorem StickyPortwise.of_ports {e : Event} {s t : State} (h : t.ports = s.ports) : StickyPortwise e s t := by
  intro j o o' ho ho'
  rw [h, ho] at ho'
  injection ho' with ho'
  exact ho' ▸ .refl _ _ _ _

/-- Moves of the instance at hand change that instance or nothing. -/
theorem AtHand.port_cases {s t : State} (h : AtHand s t) (hc : s.CurOk) (j : Nat) (o o' : Port)
    (ho : s.ports[j]? = some o) (ho' : t.ports[j]? = some o') : (j = s.cur ∧ o = s.port ∧ o' = t.port) ∨ o' = o := by
  by_cases hj : j = s.cur
  · have ht := t.ports_cur (h.portwise.2.2.1 hc)
    rw [h.cur, ← hj, ho'] at ht
    rw [hj, s.ports_cur hc] at ho
    exact .inl ⟨hj, (Option.some.inj ho).symm, Option.some.inj ht⟩
  · rw [h.ports_other hc j hj, ho] at ho'
    exact .inr (Option.some.inj ho').symm

/-- Moves of instance i, once it is selected, that keep its sticky state keep every instance's. -/
theorem AtHand.stickyPortwise {e : Event} {i : Nat} {s t : State} (h : AtHand (s.select i) t) (hi : i < s.nports)
    (hc : s.CurOk) (hk : StickyKept s.params e i (s.select i).port t.port) : StickyPortwise e s t := by
  intro j o o' ho ho'
  rw [← State.select_ports i s] at ho
  rcases h.port_cases (s.select_curOk i hc) j o o' ho ho' with ⟨hj, rfl, rfl⟩ | rfl
  · rw [hj, (s.select_spec i hi).2]; exact hk
  · exact .refl _ _ _ _

theorem onInstance_sticky (e : Event) (i : Nat) (f : State → Host.Outcome State Fault Refusal)
    (hf : ∀ a b, f a = .next b → AtHand a b)
    (s t : State) (hk : ∀ a b, f a = .next b → StickyKept s.params e i a.port b.port)
    (hc : s.CurOk) (h : onInstance i f s = .next t) : StickyPortwise e s t := by
  rcases onInstance_cases i f s with ⟨hi, hx⟩ | ⟨_, hx⟩ <;> rw [hx] at h
  · exact (hf _ _ h).stickyPortwise hi hc (hk _ _ h)
  · injection h with h; subst h; exact .of_ports rfl

theorem apiCall_sticky (portId : Nat) (c : ApiCall) (s : State) (hc : s.CurOk) :
    StickyPortwise (.call portId c) s (s.apiCall portId c) := by
  unfold State.apiCall
  split
  · exact .of_ports rfl
  · rename_i i hl
    split_ifs with hi
    · exact (startCall_atHand c _).stickyPortwise hi hc (startCall_sticky _ portId i hl c _)
    · exact .of_ports (by simp)
    · exact .of_ports rfl

theorem powerOn_ports (s : State) : s.powerOn.ports = s.ports.map Port.powerOn := by
  simp [State.ports, List.map_take, List.map_drop]

theorem powerOn_stickyPortwise (s : State) : StickyPortwise .reset s s.powerOn := by
  intro j o o' ho ho'
  rw [powerOn_ports, List.getElem?_map, ho] at ho'
  injection ho' with ho'
  exact ho' ▸ powerOn_sticky _ j o

theorem runEvent_sticky (e : Event) (s t : State) (hc : s.CurOk) (h : runEvent e s = .next t) : StickyPortwise e s t := by
  cases e with
  | host i w tmo =>
    exact onInstance_sticky _ i _ (hostWord_atHand w tmo) s t
      (fun a b hb => .of_host_eq (hostWord_keeps_rxIe w tmo a b hb) (hostWord_host w tmo a b hb)) hc h
  | device i w =>
    exact onInstance_sticky _ i _ (issueDevice_atHand w) s t
      (fun a b hb => .of_host_eq (issueDevice_keeps_rxIe w a b hb) (issueDevice_host w a b hb)) hc h
  | complete i =>
    exact onInstance_sticky _ i _ completeHeld_atHand s t
      (fun a b hb => .of_host_eq (completeHeld_keeps_rxIe a b hb) (completeHeld_host a b hb)) hc h
  | sync i c =>
    exact onInstance_sticky _ i (fun t => .next (t.syncStep c))
      (fun a b hb => by injection hb with hb; exact hb ▸ syncStep_atHand c a) s t
      (fun a b hb => by injection hb with hb; subst hb; exact .of_host_eq (by simp) (syncStep_host c a)) hc h
  | timeout i =>
    exact onInstance_sticky _ i (fun t => .next t.timeoutStep)
      (fun a b hb => by injection hb with hb; exact hb ▸ timeoutStep_atHand a) s t
      (fun a b hb => by injection hb with hb; subst hb; exact .of_host_eq (by simp) (timeoutStep_host a)) hc h
  | call portId c => injection h with h; exact h ▸ apiCall_sticky portId c s hc
  | driver i => exact onInstance_sticky _ i _ driverStep_atHand s t (fun a b => driverStep_sticky _ i a b) hc h
  | reset => injection h with h; exact h ▸ powerOn_stickyPortwise s

/-- The eager sync writes views only, so it takes back nothing the event kept (43_sync_steps R181). -/
theorem step_sticky (s t : State) (h : step s = .next t) (hc : s.CurOk) : StickyPortwise s.draw.event s t := by
  obtain ⟨u, hu, rfl⟩ := step_next_cases s t h
  intro j o o' ho ho'
  have hcu : u.CurOk := (runEvent_portwise _ _ _ hu).2.2.1 hc
  obtain ⟨m, hm, _⟩ := (settle_atHand u).portwise.2.2.2 hcu j o' ho'
  have hk : StickyKept s.params s.draw.event j o m := runEvent_sticky _ s.taken u hc hu j o m ho hm
  rcases (settle_atHand u).port_cases hcu j m o' hm ho' with ⟨_, rfl, rfl⟩ | rfl
  · exact hk.trans_host_eq (settle_rxIe u) (settle_host u)
  · exact hk

/-- No elementary move of an instance clears the model-level mark, power-on included (60_exceptions R242; log entry 8). -/
theorem PortMove.keeps_illegalIssued {p : Params} {o o' : Port} (h : PortMove p o o') (hi : o.illegalIssued = true) :
    o'.illegalIssued = true := by
  cases h with
  | outputs h d mark r hm => exact hm hi
  | cross c _ => cases c <;> exact hi
  | _ => simpa using hi

/-- Settles O49: parameters, instance count and `cur` by the portwise moves of a step, the mark by the elementary moves, and the
rest by the sticky record that every event keeps. -/
theorem stickyThingsStay : Obligations.StickyThingsStay := by
  intro s t h
  obtain ⟨hparams, hnports, hcur, _⟩ := step_portwise s t h
  refine ⟨hparams, hnports, fun hc => ⟨hcur hc, fun j o o' ho ho' => ?_⟩⟩
  obtain ⟨hrxIe, hinit, hends, hbegins, hcrlf⟩ := step_sticky s t h hc j o o' ho ho'
  have hmark : o.illegalIssued = true → o'.illegalIssued = true := fun hi =>
    step_keeps_portwise (fun a => a.illegalIssued = true) s t h hc (fun _ _ => PortMove.keeps_illegalIssued) j o' ho'
      fun a ha => by rw [ho] at ha; exact Option.some.inj ha ▸ hi
  exact ⟨hmark, hrxIe, hinit, hends, hbegins, hcrlf⟩

end Sys2Proof.Machine
end

section
/-! The invariants of queues and held requests, and what an event leaves alone: what an elementary move does to one queue and to
hreq, said once, and the agents' moves tied to the instance an event names (10_state R20, R28, R35). -/

namespace Sys2Proof.Machine

/-! What an elementary move does to a queue -/

/-- One change of a queue, with the condition the block takes it under (40_queue_ops R100, R106, 41_device_service R130, R134,
43_sync_steps R181 to R185, 70_reset_and_hazards R270). -/
inductive QueueMove (p : Params) (q : Queue) : Queue → Prop where
  | stay : QueueMove p q q
  | enqueue (b : Byte) (h : q.pcount p ≠ p.cap) : QueueMove p q (q.enqueue p b)
  | dequeue (h : 0 < q.ccount p) : QueueMove p q (q.dequeue p)
  | publishW : QueueMove p q (q.publishW p)
  | publishR : QueueMove p q (q.publishR p)
  | settle : QueueMove p q ((q.publishW p).publishR p)
  | reset : QueueMove p q Queue.reset

/-- TX is written by ENQ, TXSVC, its two crossings, the eager sync and a reset (10_state R22 to R26). -/
theorem PortMove.txMove {p : Params} {o o' : Port} (h : PortMove p o o') : QueueMove p o.tx o'.tx := by
  cases h with
  | pushTx b hroom => exact .enqueue b (Nat.ne_of_lt hroom)
  | popTx b _ hbyte => exact .dequeue (Nat.pos_of_ne_zero hbyte)
  | cross c _ =>
    cases c with
    | txw => exact .publishW
    | txr => exact .publishR
    | rxw => exact .stay
    | rxr => exact .stay
    | ovf => exact .stay
  | settle _ => exact .settle
  | powerOn => exact .reset
  | arm => rw [Port.arm_tx]; exact .stay
  | outputs | unhold | hold | popRx | disarm | readByte | setOvf | pushRx | enableRx | clearOvf => exact .stay

/-- RX is written by DEQ, RXSVC, its two crossings, the eager sync and a reset (10_state R22 to R26). -/
theorem PortMove.rxMove {p : Params} {o o' : Port} (h : PortMove p o o') : QueueMove p o.rx o'.rx := by
  cases h with
  | pushRx b _ hroom => exact .enqueue b hroom
  | popRx hbyte => exact .dequeue hbyte
  | cross c _ =>
    cases c with
    | txw => exact .stay
    | txr => exact .stay
    | rxw => exact .publishW
    | rxr => exact .publishR
    | ovf => exact .stay
  | settle _ => exact .settle
  | powerOn => exact .reset
  | arm => rw [Port.arm_rx]; exact .stay
  | outputs | unhold | hold | pushTx | disarm | popTx | readByte | setOvf | enableRx | clearOvf => exact .stay

/-! The order of the counts (10_state R28) -/

section
variable {p : Params} {q : Queue}

/-- The producer's view reaches C only by a push below C, and the true count, not above the view, rises with it. -/
theorem Queue.Ordered.enqueue (h : q.Ordered p) (b : Byte) (hroom : q.pcount p ≠ p.cap) : (q.enqueue p b).Ordered p := by
  obtain ⟨hct, htp, hpC⟩ := h
  have hspan := span_eq p
  have hpcount := q.pcount_enqueue p b (by omega)
  have htcount := q.tcount_enqueue p b (by omega)
  have hccount := q.ccount_enqueue p b
  unfold Queue.Ordered
  omega

/-- The consumer's view stays above 0 only while the true count, not below it, does. -/
theorem Queue.Ordered.dequeue (h : q.Ordered p) (hbyte : 0 < q.ccount p) : (q.dequeue p).Ordered p := by
  obtain ⟨hct, htp, hpC⟩ := h
  have hccount := q.ccount_dequeue p hbyte
  have htcount := q.tcount_dequeue p (by omega)
  have hpcount := q.pcount_dequeue p
  unfold Queue.Ordered
  omega

theorem Queue.Ordered.publishW (h : q.Ordered p) : (q.publishW p).Ordered p := by
  obtain ⟨_, htp, hpC⟩ := h
  simp [Queue.Ordered, htp, hpC]

theorem Queue.Ordered.publishR (h : q.Ordered p) : (q.publishR p).Ordered p := by
  obtain ⟨hct, htp, hpC⟩ := h
  simp [Queue.Ordered, hct, htp.trans hpC]

theorem Queue.reset_ordered (p : Params) : Queue.reset.Ordered p := by simp [Queue.Ordered]

theorem QueueMove.keeps_ordered {q' : Queue} (h : QueueMove p q q') (ho : q.Ordered p) : q'.Ordered p := by
  cases h with
  | stay => exact ho
  | enqueue b hroom => exact ho.enqueue b hroom
  | dequeue hbyte => exact ho.dequeue hbyte
  | publishW => exact ho.publishW
  | publishR => exact ho.publishR
  | settle => exact ho.publishW.publishR
  | reset => exact Queue.reset_ordered p

end

/-- Settles O44: every elementary move of an instance moves TX and RX by a queue move, and each of those keeps the order. -/
theorem occupancyOrderKept : Obligations.OccupancyOrderKept := by
  intro s t hc h
  refine step_keeps_allPorts _ s t h hc fun o o' hm ho => ?_
  obtain ⟨htx, hrx⟩ := ho
  exact ⟨hm.txMove.keeps_ordered htx, hm.rxMove.keeps_ordered hrx⟩

/-! The held request (10_state R35, 40_queue_ops R117) -/

/-- An elementary move leaves hreq, clears it, or holds a well-formed request that may hold. -/
theorem PortMove.hreq_cases {p : Params} {o o' : Port} (h : PortMove p o o') :
    o'.hreq = o.hreq ∨ o'.hreq = none ∨ ∃ i : Instr, o'.hreq = some i ∧ i.mayHold = true ∧ i.wf = true := by
  cases h with
  | unhold => exact .inr (.inl rfl)
  | hold i hmay hwf => exact .inr (.inr ⟨i, rfl, hmay, hwf⟩)
  | powerOn => exact .inr (.inl rfl)
  | cross c _ => cases c <;> exact .inl rfl
  | arm => exact .inl (o.arm_hreq p)
  | outputs | pushTx | popRx | disarm | popTx | readByte | setOvf | pushRx | enableRx | clearOvf | settle => exact .inl rfl

theorem PortMove.keeps_heldMayHold {p : Params} {o o' : Port} (h : PortMove p o o') (ho : o.HeldMayHold) : o'.HeldMayHold := by
  intro i hi
  rcases h.hreq_cases with hsame | hnone | ⟨k, hk, hlegal⟩
  · exact ho i (hsame ▸ hi)
  · rw [hnone] at hi; cases hi
  · rw [hk] at hi; exact Option.some.inj hi ▸ hlegal

/-- Settles O47: the only elementary move that holds a request is exec's, on the request's own two conditions. -/
theorem heldRequestStaysLegal : Obligations.HeldRequestStaysLegal :=
  fun s t hc h => step_keeps_allPorts _ s t h hc fun _ _ hm => hm.keeps_heldMayHold

/-! Isolation of the instances (10_state R20, 60_exceptions R251) -/

/-- The instance an event acts at by its number: none for a call, which names an identifier, and for a reset. -/
def eventTarget : Event → Option Nat
  | .host k _ _ => some k
  | .device k _ => some k
  | .complete k => some k
  | .sync k _ => some k
  | .timeout k => some k
  | .driver k => some k
  | .call _ _ => none
  | .reset => none

theorem onInstance_atHand {k : Nat} {f : State → Host.Outcome State Fault Refusal} {s t : State}
    (hf : ∀ a b, f a = .next b → AtHand a b) (hk : k < s.nports) (h : onInstance k f s = .next t) :
    AtHand (s.select k) t := by
  rcases onInstance_cases k f s with ⟨_, hx⟩ | ⟨hn, _⟩
  · exact hf _ _ (hx ▸ h)
  · exact absurd hk hn

/-- An event at instance k moves that instance, once it is selected, and nothing else. -/
theorem runEvent_atHand (e : Event) {k : Nat} {s t : State} (he : eventTarget e = some k) (hk : k < s.nports)
    (h : runEvent e s = .next t) : AtHand (s.select k) t := by
  cases e with
  | host i w tmo => cases he; exact onInstance_atHand (hostWord_atHand w tmo) hk h
  | device i w => cases he; exact onInstance_atHand (issueDevice_atHand w) hk h
  | complete i => cases he; exact onInstance_atHand completeHeld_atHand hk h
  | sync i c =>
    cases he
    exact onInstance_atHand (f := fun t => .next (t.syncStep c))
      (fun a b hb => by injection hb with hb; exact hb ▸ syncStep_atHand c a) hk h
  | timeout i =>
    cases he
    exact onInstance_atHand (f := fun t => .next t.timeoutStep)
      (fun a b hb => by injection hb with hb; exact hb ▸ timeoutStep_atHand a) hk h
  | driver i => cases he; exact onInstance_atHand driverStep_atHand hk h
  | call portId c => cases he
  | reset => cases he

/-- A call whose identifier names instance k moves that instance, once it is selected, and nothing else (44_host_sequences
R200). -/
theorem apiCall_atHand {portId k : Nat} (c : ApiCall) {s : State} (hl : lookupPort s.params portId = some k)
    (hk : k < s.nports) : AtHand (s.select k) (s.apiCall portId c) := by
  simp only [State.apiCall, hl, if_pos hk]
  split_ifs
  · exact startCall_atHand c _
  · exact .refl _

/-- A call whose identifier names no instance answers NoDevice and does nothing else (44_host_sequences R200, R204). -/
theorem apiCall_of_not_found (portId : Nat) (c : ApiCall) (s : State)
    (h : ∀ k, lookupPort s.params portId = some k → ¬ k < s.nports) :
    s.apiCall portId c = { s with apiResult := some ⟨portId, .err .noDevice⟩ } := by
  unfold State.apiCall
  split
  · rfl
  · next k hl => rw [if_neg (h k hl)]

/-- Moves of instance k, once it is selected, leave every other instance as it was. -/
theorem AtHand.select_ports_other {s t : State} {j k : Nat} (h : AtHand (s.select k) t) (hc : s.CurOk) (hk : k < s.nports)
    (hj : j ≠ k) : t.ports[j]? = s.ports[j]? := by
  rw [h.ports_other (s.select_curOk k hc) j (by rwa [(s.select_spec k hk).2]), State.select_ports]

/-- Settling leaves a machine as it is where one clock domain has settled its instance at hand already (43_sync_steps R181). -/
theorem State.settle_of_settled (s : State) (h : s.params.sync = .bypassed → s.port.settled s.params = true) :
    s.settle = s := by
  unfold State.settle
  cases hsync : s.params.sync with
  | bypassed => rw [SyncStages.isBypassed, if_pos rfl, State.modPort, Port.settle_of_settled _ _ (h hsync)]
  | chain n => rfl

/-- Settles O55: the event and the eager sync that ends its step move the selected instance alone, and a call that finds no
instance leaves the eager sync nothing to do. -/
theorem eventTouchesOneInstance : Obligations.EventTouchesOneInstance := by
  intro s t hc h
  obtain ⟨u, hu, rfl⟩ := step_next_cases s t h
  have others {k j : Nat} (hm : AtHand (s.taken.select k) u) (hk : k < s.nports) (hj : j ≠ k) :
      u.settle.ports[j]? = s.ports[j]? :=
    (hm.trans (settle_atHand u)).select_ports_other (s := s.taken) hc hk hj
  refine ⟨fun k j w tmo c hk he hj => ?_, fun portId call he => ?_⟩
  · have htarget : eventTarget s.draw.event = some k := by
      rcases he with he | he | he | he | he | he <;> rw [he] <;> rfl
    exact others (runEvent_atHand _ htarget hk hu) hk hj
  · rw [he] at hu
    injection hu with hu
    subst hu
    refine ⟨fun k j hl hk hj => others (apiCall_atHand call hl hk) hk hj, fun hnone hsettled => ?_⟩
    rw [apiCall_of_not_found portId call s.taken hnone, State.settle_of_settled]
    · rfl
    · exact hsettled

end Sys2Proof.Machine
end

section
/-! The bytes in storage: that every move keeps the storage and the registers in form, where the live slots are, and the queue as the
list of its live bytes (10_state R22 to R27, 20_memory R50 to R56). -/

namespace Sys2Proof.Machine

section
variable {p : Params} {q : Queue}

/-! The form of storage and registers (20_memory R50, 10_state R23 to R26) -/

theorem ptrOf_toNat_lt (p : Params) (n : Nat) : (ptrOf p n).toNat < p.span := by
  rw [ptrOf_toNat]; exact Nat.mod_lt _ (Nat.two_pow_pos _)

theorem ptrInc_toNat_lt (p : Params) (v : Ptr) : (ptrInc p v).toNat < p.span := ptrOf_toNat_lt p _

theorem Queue.StorageOk.enqueue (h : q.StorageOk p) (b : Byte) : (q.enqueue p b).StorageOk p :=
  ⟨Memory.wf_write _ _ b h.1, Memory.within_write _ _ _ b h.2 (slotOf_lt p q.wptr)⟩

/-- Only an enqueue writes storage, and it writes one of the C slots; a reset empties it. -/
theorem QueueMove.keeps_storageOk {q' : Queue} (h : QueueMove p q q') (hs : q.StorageOk p) : q'.StorageOk p := by
  cases h with
  | enqueue b _ => exact hs.enqueue b
  | reset => exact ⟨Queue.reset_mem_wf, rfl⟩
  | stay | dequeue | publishW | publishR | settle => exact hs

/-- Every value a move writes into a register is a pointer's successor or a gray code, of K+1 bits either way. -/
theorem QueueMove.keeps_inWidth {q' : Queue} (h : QueueMove p q q') (hq : q.InWidth p) : q'.InWidth p := by
  obtain ⟨hwptr, hrptr, hwsync, hrsync⟩ := hq
  have hgray := grayOf_toNat_lt p
  cases h with
  | stay => exact ⟨hwptr, hrptr, hwsync, hrsync⟩
  | enqueue b _ => exact ⟨ptrInc_toNat_lt p _, hrptr, hwsync, hrsync⟩
  | dequeue _ => exact ⟨hwptr, ptrInc_toNat_lt p _, hwsync, hrsync⟩
  | publishW => exact ⟨hwptr, hrptr, hgray _, hrsync⟩
  | publishR => exact ⟨hwptr, hrptr, hwsync, hgray _⟩
  | settle => exact ⟨hwptr, hrptr, hgray _, hgray _⟩
  | reset =>
    have hzero : (0 : Ptr).toNat < p.span := Nat.two_pow_pos _
    exact ⟨hzero, hzero, hzero, hzero⟩

/-! The live slots (20_memory R55) -/

theorem cap_dvd_span (p : Params) : p.cap ∣ p.span := ⟨2, by rw [span_eq, Nat.mul_comm]⟩

/-- The distance mod 2C from one register value to another leads from the one to the other. -/
theorem add_diff2C_mod (p : Params) (a b : Nat) (ha : a < p.span) (hb : b < p.span) : (b + diff2C p a b) % p.span = a := by
  rw [diff2C, Nat.add_mod_mod, show b + (a + p.span - b) = a + p.span by omega, Nat.add_mod_right, Nat.mod_eq_of_lt ha]

/-- The oldest live byte stands where the consumer reads. -/
@[simp] theorem Queue.liveSlot_zero : q.liveSlot p 0 = slotOf p q.rptr := rfl

/-- The slot behind the youngest live byte is the one the producer writes. -/
theorem Queue.liveSlot_tcount : q.liveSlot p (q.tcount p) = slotOf p q.wptr := by
  have hwptr := add_diff2C_mod p _ _ (ptrVal_lt p q.wptr) (ptrVal_lt p q.rptr)
  rw [Queue.liveSlot, ← Nat.mod_mod_of_dvd _ (cap_dvd_span p), Queue.tcount, hwptr, slotOf]

@[simp] theorem Queue.liveSlot_enqueue (b : Byte) (j : Nat) : (q.enqueue p b).liveSlot p j = q.liveSlot p j := rfl

@[simp] theorem Queue.liveSlot_dequeue (j : Nat) : (q.dequeue p).liveSlot p j = q.liveSlot p (j + 1) := by
  rw [Queue.liveSlot, Queue.dequeue_rptr, ptrVal_ptrInc, ← Nat.mod_mod_of_dvd _ (cap_dvd_span p), Nat.mod_add_mod,
    Nat.mod_mod_of_dvd _ (cap_dvd_span p), Queue.liveSlot, Nat.add_right_comm, Nat.add_assoc]

/-- C consecutive positions lie in C different slots. -/
theorem Queue.liveSlot_ne {j k : Nat} (hj : j < p.cap) (hk : k < p.cap) (hne : j ≠ k) : q.liveSlot p j ≠ q.liveSlot p k :=
  fun h => hne ((Nat.ModEq.add_left_cancel' (ptrVal p q.rptr) h).eq_of_lt_of_lt hj hk)

/-- A producer that sees room has the true count below C, so the slot it writes is no live byte's. -/
theorem Queue.Ordered.liveSlot_ne_slotOf_wptr (h : q.Ordered p) (hroom : q.pcount p < p.cap) {j : Nat}
    (hj : j < q.tcount p) : q.liveSlot p j ≠ slotOf p q.wptr := by
  obtain ⟨_, htp, _⟩ := h
  rw [← Queue.liveSlot_tcount]
  exact Queue.liveSlot_ne (by omega) (by omega) (by omega)

/-- An enqueue leaves every live byte readable as before. -/
theorem Queue.Ordered.read_enqueue_liveSlot (h : q.Ordered p) (hroom : q.pcount p < p.cap) (b : Byte) {j : Nat}
    (hj : j < q.tcount p) : Memory.read (q.enqueue p b).mem (q.liveSlot p j) = Memory.read q.mem (q.liveSlot p j) :=
  Memory.read_write_ne _ _ _ b (h.liveSlot_ne_slotOf_wptr hroom hj)

/-! The list of the live bytes under the operations of a queue (20_memory R56) -/

theorem Queue.Ordered.contents_enqueue (h : q.Ordered p) (hroom : q.pcount p < p.cap) (b : Byte) :
    (q.enqueue p b).contents p = q.contents p ++ [some b] := by
  have htcount : (q.enqueue p b).tcount p = q.tcount p + 1 := by
    obtain ⟨_, htp, _⟩ := h
    have hspan := span_eq p
    exact q.tcount_enqueue p b (by omega)
  have hlive : ∀ j ∈ List.range (q.tcount p),
      Memory.read (q.enqueue p b).mem (q.liveSlot p j) = Memory.read q.mem (q.liveSlot p j) :=
    fun j hj => h.read_enqueue_liveSlot hroom b (List.mem_range.1 hj)
  have hnew : Memory.read (q.enqueue p b).mem (q.liveSlot p (q.tcount p)) = some b := by
    rw [Queue.liveSlot_tcount, Queue.enqueue_mem, Memory.read_write_same]
  simp only [Queue.contents, htcount, Queue.liveSlot_enqueue, List.range_succ, List.map_append, List.map_congr_left hlive,
    List.map_singleton, hnew]

theorem Queue.contents_dequeue (h : 0 < q.tcount p) :
    q.contents p = Memory.read q.mem (slotOf p q.rptr) :: (q.dequeue p).contents p := by
  obtain ⟨n, hn⟩ := Nat.exists_eq_succ_of_ne_zero h.ne'
  have htcount : (q.dequeue p).tcount p = n := by rw [q.tcount_dequeue p h, hn]; rfl
  simp only [Queue.contents, htcount, hn, List.range_succ_eq_map, List.map_cons, List.map_map, Queue.liveSlot_zero,
    Function.comp_def, Queue.dequeue_mem, Queue.liveSlot_dequeue]

@[simp] theorem Queue.contents_reset (p : Params) : Queue.reset.contents p = [] := by simp [Queue.contents]

/-! No unwritten slot among the live ones (20_memory R54) -/

theorem Queue.liveWritten_iff : q.LiveWritten p ↔ ∀ c ∈ q.contents p, c.isSome = true := by
  simp [Queue.LiveWritten, Queue.contents]

/-- A move appends a written byte to the live ones, takes the oldest away, drops all, or leaves them as they are. -/
theorem QueueMove.keeps_liveWritten {q' : Queue} (h : QueueMove p q q') (ho : q.Ordered p) (hw : q.LiveWritten p) :
    q'.LiveWritten p := by
  rw [Queue.liveWritten_iff] at hw ⊢
  have ⟨hct, _, hpC⟩ := ho
  cases h with
  | enqueue b hroom =>
    rw [ho.contents_enqueue (by omega), List.forall_mem_append]
    exact ⟨hw, by simp⟩
  | dequeue hbyte =>
    rw [Queue.contents_dequeue (by omega), List.forall_mem_cons] at hw
    exact hw.2
  | reset => simp
  | stay | publishW | publishR | settle => exact hw

/-- Where the consumer sees a byte, the slot it reads is live. -/
theorem Queue.LiveWritten.head_isSome (hw : q.LiveWritten p) (ho : q.Ordered p) (hbyte : 0 < q.ccount p) :
    (Memory.read q.mem (slotOf p q.rptr)).isSome = true :=
  hw 0 (hbyte.trans_le ho.1)

end

/-- Settles O45: every elementary move of an instance moves TX and RX by a queue move, and each of those keeps the form. -/
theorem storageAndRegistersKeepForm : Obligations.StorageAndRegistersKeepForm := by
  intro s t hc h
  refine step_keeps_allPorts _ s t h hc fun o o' hm ho => ?_
  obtain ⟨⟨htxMem, hrxMem⟩, htxReg, hrxReg⟩ := ho
  exact ⟨⟨hm.txMove.keeps_storageOk htxMem, hm.rxMove.keeps_storageOk hrxMem⟩,
    hm.txMove.keeps_inWidth htxReg, hm.rxMove.keeps_inWidth hrxReg⟩

/-- Settles O46: the order of the counts and the written live slots are kept together, queue move by queue move; and the slot a
consumer reads is the first live one. -/
theorem liveSlotsStayWritten : Obligations.LiveSlotsStayWritten := by
  refine ⟨fun s t hc h hs => ?_, fun p q ho hw hbyte => hw.head_isSome ho hbyte⟩
  refine fun o' ho' => (step_keeps_allPorts _ s t h hc (fun o o' hm ho => ?_) hs o' ho').2
  obtain ⟨⟨htx, hrx⟩, htxW, hrxW⟩ := ho
  exact ⟨⟨hm.txMove.keeps_ordered htx, hm.rxMove.keeps_ordered hrx⟩,
    hm.txMove.keeps_liveWritten htx htxW, hm.rxMove.keeps_liveWritten hrx hrxW⟩

end Sys2Proof.Machine
end

section
/-! What one request does to the two queues, said once and tied to the request: a request writes no live byte, and each queue is
first in, first out (20_memory R55, R56, 40_queue_ops R100, R106, 41_device_service R130, R133, R134). -/

namespace Sys2Proof.Machine

/-! The completion conditions as the counts they compare (10_state R27) -/

theorem State.txHasRoom_iff (s : State) : s.txHasRoom = true ↔ s.port.tx.pcount s.params < s.params.cap := by
  simp [State.txHasRoom]

theorem State.rxHasByte_iff (s : State) : s.rxHasByte = true ↔ 0 < s.port.rx.ccount s.params := by
  simp [State.rxHasByte]

theorem State.txEmpty_eq_false_iff (s : State) : s.txEmpty = false ↔ s.port.tx.ccount s.params ≠ 0 := by
  simp [State.txEmpty, Queue.emptyC]

theorem State.rxFull_eq_false_iff (s : State) : s.rxFull = false ↔ s.port.rx.pcount s.params ≠ s.params.cap := by
  simp [State.rxFull, Queue.fullP]

section
variable {i : Instr} {s t : State}

/-! The four transactions that move a byte, where they complete -/

theorem exec_enq_of_room {b : Byte} (hi : IsEnq i b) (hroom : s.port.tx.pcount s.params < s.params.cap) :
    exec i s = .next (s.enqDone b) := by
  rcases hi with rfl | rfl | ⟨n, rfl⟩ <;> exact if_pos (s.txHasRoom_iff.2 hroom)

theorem exec_deq_of_byte (hi : IsDeq i) (hbyte : 0 < s.port.rx.ccount s.params) : exec i s = .next s.deqDone := by
  rcases hi with rfl | rfl | ⟨n, rfl⟩ <;> exact if_pos (s.rxHasByte_iff.2 hbyte)

theorem exec_txsvc_of_byte (hen : s.txsvcEnabled = true) (hbyte : s.port.tx.ccount s.params ≠ 0) :
    exec .txsvc s = .next s.txsvcSend := by
  simp [exec, execTxsvc, hen, s.txEmpty_eq_false_iff.2 hbyte]

theorem exec_rxsvc_of_room {b : Byte} (hen : s.rxsvcEnabled b = true)
    (hroom : s.port.rx.pcount s.params ≠ s.params.cap) : exec (.rxsvc b) s = .next (s.rxsvcStore b) := by
  simp [exec, execRxsvc, hen, s.rxFull_eq_false_iff.2 hroom]

/-! Every request's effect on the queues -/

/-- What a request does to the queues and to the emitted bytes: one of the four completions above, or nothing. -/
inductive QueueEffect (i : Instr) (s : State) : State → Prop where
  | enq (b : Byte) (hi : IsEnq i b) (hroom : s.port.tx.pcount s.params < s.params.cap) : QueueEffect i s (s.enqDone b)
  | deq (hi : IsDeq i) (hbyte : 0 < s.port.rx.ccount s.params) : QueueEffect i s s.deqDone
  | send (hi : i = .txsvc) (hen : s.txsvcEnabled = true) (hbyte : s.port.tx.ccount s.params ≠ 0) :
      QueueEffect i s s.txsvcSend
  | store (b : Byte) (hi : i = .rxsvc b) (hen : s.rxsvcEnabled b = true)
      (hroom : s.port.rx.pcount s.params ≠ s.params.cap) : QueueEffect i s (s.rxsvcStore b)
  | keep (t : State) (htx : t.port.tx = s.port.tx) (hrx : t.port.rx = s.port.rx) (hout : t.port.txOut = s.port.txOut) :
      QueueEffect i s t

theorem enqWith_queueEffect {b : Byte} (hi : IsEnq i b) (pol : Policy) (h : enqWith i pol b s = .next t) :
    QueueEffect i s t := by
  rcases enqWith_cases i pol b s with ⟨hroom, he⟩ | ⟨_, _, he⟩ | ⟨_, _, _, he⟩ <;> rw [he] at h <;> cases h
  · exact .enq b hi (s.txHasRoom_iff.1 hroom)
  · exact .keep _ rfl rfl rfl
  · exact .keep _ rfl rfl rfl

theorem deqWith_queueEffect (hi : IsDeq i) (pol : Policy) (h : deqWith i pol s = .next t) : QueueEffect i s t := by
  rcases deqWith_cases i pol s with ⟨hbyte, he⟩ | ⟨_, _, he⟩ | ⟨_, _, _, he⟩ <;> rw [he] at h <;> cases h
  · exact .deq hi (s.rxHasByte_iff.1 hbyte)
  · exact .keep _ rfl rfl rfl
  · exact .keep _ rfl rfl rfl

theorem execTxsvc_queueEffect (h : execTxsvc s = .next t) : QueueEffect .txsvc s t := by
  unfold execTxsvc at h
  split_ifs at h with hen hempty <;> cases h
  · exact .keep _ rfl rfl rfl
  · exact .send rfl hen (s.txEmpty_eq_false_iff.1 (eq_false_of_ne_true hempty))
  · exact .keep _ rfl rfl rfl

theorem execRxsvc_queueEffect {b : Byte} (h : execRxsvc b s = .next t) : QueueEffect (.rxsvc b) s t := by
  unfold execRxsvc at h
  split_ifs at h with hen hfull <;> cases h
  · exact .keep _ rfl rfl rfl
  · exact .store b rfl hen (s.rxFull_eq_false_iff.1 (eq_false_of_ne_true hfull))
  · exact .keep _ rfl rfl rfl

theorem exec_queueEffect (h : exec i s = .next t) : QueueEffect i s t := by
  cases i with
  | enqTxNw b => exact enqWith_queueEffect (.inl rfl) .noWait h
  | enqTxWf b => exact enqWith_queueEffect (.inr (.inl rfl)) .forever h
  | enqTxWt b n => exact enqWith_queueEffect (.inr (.inr ⟨n, rfl⟩)) (.upTo n) h
  | deqRxNw => exact deqWith_queueEffect (.inl rfl) .noWait h
  | deqRxWf => exact deqWith_queueEffect (.inr (.inl rfl)) .forever h
  | deqRxWt n => exact deqWith_queueEffect (.inr (.inr ⟨n, rfl⟩)) (.upTo n) h
  | txsvc => exact execTxsvc_queueEffect h
  | rxsvc b => exact execRxsvc_queueEffect h
  | nop | armtx | armrx | ovfrd | ovfclr | lvlTx | lvlRx =>
    cases h
    exact .keep _ (by simp) (by simp) (by simp)

/-- A request that completes no ENQ and sends no byte leaves TX and the emitted bytes alone (40_queue_ops R100, 41_device_service
R130). -/
theorem QueueEffect.tx_unchanged (h : QueueEffect i s t)
    (henq : ∀ b, IsEnq i b → ¬ s.port.tx.pcount s.params < s.params.cap)
    (hsend : i = .txsvc → s.txsvcEnabled = false ∨ s.port.tx.ccount s.params = 0) :
    t.port.tx = s.port.tx ∧ t.port.txOut = s.port.txOut := by
  cases h with
  | enq b hi hroom => exact absurd hroom (henq b hi)
  | send hi hen hbyte =>
    rcases hsend hi with hoff | hempty
    · exact absurd hoff (ne_false_of_eq_true hen)
    · exact absurd hempty hbyte
  | deq | store => exact ⟨rfl, rfl⟩
  | keep _ htx _ hout => exact ⟨htx, hout⟩

/-- A request that completes no DEQ and stores no byte leaves RX alone (40_queue_ops R106, 41_device_service R134). -/
theorem QueueEffect.rx_unchanged (h : QueueEffect i s t) (hdeq : IsDeq i → s.port.rx.ccount s.params = 0)
    (hstore : ∀ b, i = .rxsvc b → s.rxsvcEnabled b = false ∨ s.port.rx.pcount s.params = s.params.cap) :
    t.port.rx = s.port.rx := by
  cases h with
  | deq hi hbyte => exact absurd (hdeq hi) hbyte.ne'
  | store b hi hen hroom =>
    rcases hstore b hi with hoff | hfull
    · exact absurd hoff (ne_false_of_eq_true hen)
    · exact absurd hfull hroom
  | enq | send => rfl
  | keep _ _ hrx _ => exact hrx

end

/-- Settles O50: the producer's slot stands behind the live ones, and only a producer writes storage. -/
theorem liveSlotsNeverOverwritten : Obligations.LiveSlotsNeverOverwritten := by
  refine ⟨fun p q ho hroom j hj => ho.liveSlot_ne_slotOf_wptr hroom hj, fun s t i hotx horx h => ?_⟩
  cases exec_queueEffect h with
  | enq b _ hroom => exact ⟨fun j => hotx.read_enqueue_liveSlot hroom b, fun _ _ => rfl⟩
  | store b _ _ hroom =>
    exact ⟨fun _ _ => rfl, fun j => horx.read_enqueue_liveSlot (lt_of_le_of_ne horx.2.2 hroom) b⟩
  | deq | send => exact ⟨fun _ _ => rfl, fun _ _ => rfl⟩
  | keep _ htx hrx _ => rw [htx, hrx]; exact ⟨fun _ _ => rfl, fun _ _ => rfl⟩

/-! First in, first out (20_memory R56) -/

/-- The byte TXSVC sends is a written one, the oldest live byte (20_memory R54). -/
theorem State.contents_tx (s : State) (ho : s.port.tx.Ordered s.params) (hw : s.port.tx.LiveWritten s.params)
    (hbyte : 0 < s.port.tx.ccount s.params) :
    s.port.tx.contents s.params = some s.txHead :: (s.port.tx.dequeue s.params).contents s.params := by
  obtain ⟨b, hb⟩ := Option.isSome_iff_exists.1 (hw.head_isSome ho hbyte)
  rw [Queue.contents_dequeue (hbyte.trans_le ho.1), State.txHead, State.slot, hb]

/-- The byte DEQ answers is a written one, the oldest live byte (20_memory R54). -/
theorem State.contents_rx (s : State) (ho : s.port.rx.Ordered s.params) (hw : s.port.rx.LiveWritten s.params)
    (hbyte : 0 < s.port.rx.ccount s.params) :
    s.port.rx.contents s.params = some s.rxHead :: (s.port.rx.dequeue s.params).contents s.params := by
  obtain ⟨b, hb⟩ := Option.isSome_iff_exists.1 (hw.head_isSome ho hbyte)
  rw [Queue.contents_dequeue (hbyte.trans_le ho.1), State.rxHead, State.slot, hb]

/-- A synchronizer step copies pointers into views and moves no byte (43_sync_steps R182 to R187). -/
theorem State.syncStep_contents (c : Crossing) (s : State) :
    (s.syncStep c).port.tx.contents s.params = s.port.tx.contents s.params ∧
    (s.syncStep c).port.rx.contents s.params = s.port.rx.contents s.params := by
  rw [State.syncStep_port]
  split_ifs
  · exact ⟨rfl, rfl⟩
  · cases c <;> exact ⟨rfl, rfl⟩

/-- Settles O51: each of the four completions is one operation on the list of live bytes, and every other effect of a request
leaves its queue alone. -/
theorem queuesAreFifo : Obligations.QueuesAreFifo := by
  intro s t i hotx horx hwtx hwrx h
  refine ⟨⟨fun b hi hroom => ?enq, fun hi hen hbyte => ?send, fun henq hsend => ?txKept⟩,
    ⟨fun b hi hen hroom => ?store, fun hi hbyte => ?deq, fun hstore hdeq => ?rxKept⟩, fun c => s.syncStep_contents c⟩
  case enq =>
    cases (exec_enq_of_room hi hroom).symm.trans h
    exact hotx.contents_enqueue hroom b
  case send =>
    subst hi
    cases (exec_txsvc_of_byte hen hbyte).symm.trans h
    exact ⟨s.contents_tx hotx hwtx (Nat.pos_of_ne_zero hbyte), rfl⟩
  case txKept =>
    obtain ⟨htx, hout⟩ := (exec_queueEffect h).tx_unchanged henq hsend
    exact ⟨by rw [htx], hout⟩
  case store =>
    subst hi
    cases (exec_rxsvc_of_room hen hroom).symm.trans h
    exact horx.contents_enqueue (lt_of_le_of_ne horx.2.2 hroom) b
  case deq =>
    cases (exec_deq_of_byte hi hbyte).symm.trans h
    exact ⟨s.contents_rx horx hwrx hbyte, rfl⟩
  case rxKept => rw [(exec_queueEffect h).rx_unchanged hdeq hstore]

end Sys2Proof.Machine
end

section
/-! The encoding of requests: the fields of a word, the operation map of 30_encoding R73 as a relation that decode is shown to
compute, and from it the round trips and the rejected words (30_encoding R70 to R79, 60_exceptions R248). -/

namespace Sys2Proof

/-! The fields of a word (30_encoding R70) -/

section
variable (op : BitVec 4) (pol : BitVec 2) (q : BitVec 1) (b : Byte)

@[simp] theorem reqRsv_reqWord : reqRsv (reqWord op pol q b) = false :=
  (Laws.WordShape.fields_of_reqWord op pol q b).1

@[simp] theorem reqPol_reqWord : reqPol (reqWord op pol q b) = pol :=
  (Laws.WordShape.fields_of_reqWord op pol q b).2.1

@[simp] theorem reqOp_reqWord : reqOp (reqWord op pol q b) = op :=
  (Laws.WordShape.fields_of_reqWord op pol q b).2.2

@[simp] theorem reqQ_reqWord : reqQ (reqWord op pol q b) = q.getLsbD 0 := by simp [reqQ, reqWord]

theorem reqQ_reqWord_ofBool (q : Bool) : reqQ (reqWord op pol (BitVec.ofBool q) b) = q := by simp

@[simp] theorem reqData_reqWord : reqData (reqWord op pol q b) = b := by
  apply BitVec.eq_of_getLsbD_eq
  intro k hk
  interval_cases k <;> simp [reqData, reqWord]

end

/-- A word with RSV = 0 is the word of its own fields. -/
theorem reqWord_of_fields (w : ReqWord) (hrsv : reqRsv w = false) :
    reqWord (reqOp w) (reqPol w) (BitVec.ofBool (reqQ w)) (reqData w) = w := by
  have hbit : w[8] = false := hrsv
  apply BitVec.eq_of_getLsbD_eq
  intro k hk
  interval_cases k <;> simp [reqWord, reqOp, reqPol, reqQ, reqData, hbit]

theorem exists_reqWord {w : ReqWord} (hrsv : reqRsv w = false) :
    ∃ (op : BitVec 4) (pol : BitVec 2) (q : Bool) (b : Byte), w = reqWord op pol (BitVec.ofBool q) b :=
  ⟨_, _, _, _, (reqWord_of_fields w hrsv).symm⟩

/-! The wait policies (30_encoding R71, R72) -/

/-- The policy that the POL bits and the operand stand for (30_encoding R71, R72). -/
def policyOf (bits : BitVec 2) (tmo : Tmo) : Policy :=
  if bits = 0b10 then (if tmo = 0 then .noWait else .upTo tmo)
  else if bits = 0b01 then .forever
  else .noWait

theorem reqPolicy_eq_policyOf (w : ReqWord) (tmo : Tmo) : reqPolicy w tmo = policyOf (reqPol w) tmo := rfl

/-- The POL bits that spell a policy (30_encoding R71). -/
def Policy.bits : Policy → BitVec 2
  | .noWait => 0b00
  | .forever => 0b01
  | .upTo _ => 0b10

/-- The TMO operand that spells a policy, 0 where it has none (30_encoding R71). -/
def Policy.operand : Policy → Tmo
  | .noWait => 0
  | .forever => 0
  | .upTo n => n

theorem Policy.bits_ne_reserved (pol : Policy) : pol.bits ≠ 0b11 := by cases pol <;> simp [Policy.bits]

theorem policyOf_bits_operand {pol : Policy} (h : pol ≠ .upTo 0) : policyOf pol.bits pol.operand = pol := by
  cases pol with
  | noWait => rfl
  | forever => rfl
  | upTo n => exact if_neg fun hn => h (congrArg _ hn)

theorem policyOf_ne_upTo_zero (bits : BitVec 2) (tmo : Tmo) : policyOf bits tmo ≠ .upTo 0 := by
  unfold policyOf
  split_ifs with _ htmo
  · simp
  · exact fun h => htmo (Policy.upTo.inj h)
  · simp
  · simp

/-- TMO is ignored unless POL = 10 (30_encoding R72). -/
theorem policyOf_congr_tmo {bits : BitVec 2} (h : bits ≠ 0b10) (tmo tmo' : Tmo) : policyOf bits tmo = policyOf bits tmo' := by
  simp only [policyOf, if_neg h]

/-- Only a WaitUpTo of 0 is read as another policy than the one its bits name (30_encoding R72). -/
theorem bits_policyOf {bits : BitVec 2} {tmo : Tmo} (hres : bits ≠ 0b11) (h : bits ≠ 0b10 ∨ tmo ≠ 0) :
    (policyOf bits tmo).bits = bits := by
  have hcases : bits = 0b00 ∨ bits = 0b01 ∨ bits = 0b10 := by clear h; revert bits; decide
  rcases hcases with rfl | rfl | rfl
  · rfl
  · rfl
  · exact congrArg Policy.bits (if_neg (h.resolve_left (· rfl)))

theorem operand_policyOf {bits : BitVec 2} {tmo : Tmo} (hbits : bits = 0b10) (htmo : tmo ≠ 0) :
    (policyOf bits tmo).operand = tmo := by
  rw [policyOf, if_pos hbits, if_neg htmo]; rfl

/-! ENQ and DEQ of a policy (40_queue_ops R100, R106) -/

section
variable (pol : Policy) (b : Byte) (port : ReqPort)

@[simp] theorem Policy.encode_enq : (pol.enq b).encode = (reqWord 0x1 pol.bits 0 b, pol.operand) := by cases pol <;> rfl

@[simp] theorem Policy.encode_deq : pol.deq.encode = (reqWord 0x2 pol.bits 1 0, pol.operand) := by cases pol <;> rfl

@[simp] theorem Policy.legalOn_enq : (pol.enq b).legalOn port = (port == .host) := by cases pol <;> rfl

@[simp] theorem Policy.legalOn_deq : pol.deq.legalOn port = (port == .host) := by cases pol <;> rfl

@[simp] theorem Policy.wf_enq : (pol.enq b).wf = true ↔ pol ≠ .upTo 0 := by cases pol <;> simp [Policy.enq, Instr.wf]

@[simp] theorem Policy.wf_deq : pol.deq.wf = true ↔ pol ≠ .upTo 0 := by cases pol <;> simp [Policy.deq, Instr.wf]

end

/-! The operation map (30_encoding R73, R74) -/

/-- The rows of the operation map: on which port a word, with a TMO operand, spells which request. -/
inductive Spells (tmo : Tmo) : ReqPort → ReqWord → Instr → Prop where
  | nop (port : ReqPort) : Spells tmo port (reqWord 0x0 0b00 0 0) .nop
  | enq (bits : BitVec 2) (b : Byte) (hres : bits ≠ 0b11) :
      Spells tmo .host (reqWord 0x1 bits 0 b) ((policyOf bits tmo).enq b)
  | deq (bits : BitVec 2) (hres : bits ≠ 0b11) : Spells tmo .host (reqWord 0x2 bits 1 0) (policyOf bits tmo).deq
  | txsvc : Spells tmo .device (reqWord 0x3 0b00 0 0) .txsvc
  | rxsvc (b : Byte) : Spells tmo .device (reqWord 0x4 0b00 1 b) (.rxsvc b)
  | armtx : Spells tmo .host (reqWord 0x5 0b00 0 0) .armtx
  | armrx : Spells tmo .host (reqWord 0x6 0b00 1 0) .armrx
  | ovfrd : Spells tmo .host (reqWord 0x7 0b00 1 0) .ovfrd
  | ovfclr : Spells tmo .host (reqWord 0x8 0b00 1 0) .ovfclr
  | lvlTx : Spells tmo .host (reqWord 0x9 0b00 0 0) .lvlTx
  | lvlRx : Spells tmo .host (reqWord 0x9 0b00 1 0) .lvlRx

theorem onPort_eq_ok {port need : ReqPort} {x : Except Illegal Instr} {i : Instr} :
    onPort port need x = .ok i ↔ port = need ∧ x = .ok i := by
  unfold onPort
  split_ifs with h <;> simp [h]

theorem exactly_eq_ok {w row : ReqWord} {i j : Instr} : exactly w row i = .ok j ↔ w = row ∧ i = j := by
  unfold exactly
  split_ifs with h <;> simp [h]

theorem decode_of_spells {port : ReqPort} {w : ReqWord} {tmo : Tmo} {i : Instr} (h : Spells tmo port w i) :
    decode port w tmo = .ok i := by
  cases h with
  | enq bits b hres => simpa [decode, onPort, reqPolicy_eq_policyOf] using hres
  | deq bits hres => simpa [decode, onPort, reqPolicy_eq_policyOf] using hres
  | rxsvc b => simp [decode, onPort]
  | nop | txsvc | armtx | armrx | ovfrd | ovfclr | lvlTx | lvlRx => rfl

/-- A row of the map that has one word only. -/
theorem Spells.of_exactly {tmo : Tmo} {port need : ReqPort} {w row : ReqWord} {i j : Instr} (hrow : Spells tmo need row j)
    (h : onPort port need (exactly w row j) = .ok i) : Spells tmo port w i := by
  obtain ⟨rfl, hok⟩ := onPort_eq_ok.1 h
  obtain ⟨rfl, rfl⟩ := exactly_eq_ok.1 hok
  exact hrow

theorem spells_of_decode {port : ReqPort} {w : ReqWord} {tmo : Tmo} {i : Instr} (h : decode port w tmo = .ok i) :
    Spells tmo port w i := by
  unfold decode at h
  by_cases hrsv : reqRsv w = true
  · rw [if_pos hrsv] at h; cases h
  by_cases hres : reqPol w = 0b11
  · rw [if_neg hrsv, if_pos hres] at h; cases h
  rw [if_neg hrsv, if_neg hres] at h
  obtain ⟨op, bits, q, b, rfl⟩ := exists_reqWord (eq_false_of_ne_true hrsv)
  simp only [reqOp_reqWord, reqPol_reqWord, reqQ_reqWord_ofBool, reqData_reqWord, reqPolicy_eq_policyOf] at h hres
  split at h
  case h_1 =>
    obtain ⟨hw, rfl⟩ := exactly_eq_ok.1 h
    rw [hw]; exact .nop port
  case h_2 hop =>
    obtain rfl : op = 0x1 := BitVec.eq_of_toNat_eq hop
    obtain ⟨rfl, hok⟩ := onPort_eq_ok.1 h
    cases q with
    | true => cases hok
    | false => cases hok; exact .enq bits b hres
  case h_3 hop =>
    obtain rfl : op = 0x2 := BitVec.eq_of_toNat_eq hop
    obtain ⟨rfl, hok⟩ := onPort_eq_ok.1 h
    cases q with
    | false => cases hok
    | true =>
      simp only [Bool.not_true, Bool.false_eq_true, if_false] at hok
      split_ifs at hok with hb
      cases hok
      rw [hb]; exact .deq bits hres
  case h_4 => exact .of_exactly .txsvc h
  case h_5 hop =>
    obtain rfl : op = 0x4 := BitVec.eq_of_toNat_eq hop
    obtain ⟨rfl, hok⟩ := onPort_eq_ok.1 h
    cases q with
    | false => cases hok
    | true =>
      simp only [Bool.not_true, Bool.false_eq_true, if_false] at hok
      split_ifs at hok with hbits
      cases hok
      rw [hbits]; exact .rxsvc b
  case h_6 => exact .of_exactly .armtx h
  case h_7 => exact .of_exactly .armrx h
  case h_8 => exact .of_exactly .ovfrd h
  case h_9 => exact .of_exactly .ovfclr h
  case h_10 hop =>
    obtain rfl : op = 0x9 := BitVec.eq_of_toNat_eq hop
    obtain ⟨rfl, hok⟩ := onPort_eq_ok.1 h
    split_ifs at hok with hfields hq
    · obtain ⟨rfl, rfl⟩ := hfields
      cases hok; rw [hq]; exact .lvlRx
    · obtain ⟨rfl, rfl⟩ := hfields
      cases hok; rw [eq_false_of_ne_true hq]; exact .lvlTx
  case h_11 => cases h

theorem exists_error_of_forall_not_spells {port : ReqPort} {w : ReqWord} {tmo : Tmo} (h : ∀ i, ¬ Spells tmo port w i) :
    ∃ e, decode port w tmo = .error e := by
  cases hd : decode port w tmo with
  | error e => exact ⟨e, rfl⟩
  | ok i => exact absurd (spells_of_decode hd) (h i)

/-! The round trips (30_encoding R72 to R74) -/

theorem Spells.enq_encode (pol : Policy) (b : Byte) (h : pol ≠ .upTo 0) :
    Spells (pol.enq b).encode.2 .host (pol.enq b).encode.1 (pol.enq b) := by
  have hrow := Spells.enq (tmo := pol.operand) pol.bits b pol.bits_ne_reserved
  rw [policyOf_bits_operand h] at hrow
  rwa [Policy.encode_enq]

theorem Spells.deq_encode (pol : Policy) (h : pol ≠ .upTo 0) :
    Spells pol.deq.encode.2 .host pol.deq.encode.1 pol.deq := by
  have hrow := Spells.deq (tmo := pol.operand) pol.bits pol.bits_ne_reserved
  rw [policyOf_bits_operand h] at hrow
  rwa [Policy.encode_deq]

/-- The word and operand of a well-formed request are its row of the map, on each port that may spell it. -/
theorem Spells.encode {i : Instr} {port : ReqPort} (hwf : i.wf = true) (hport : i.legalOn port = true) :
    Spells i.encode.2 port i.encode.1 i := by
  cases i with
  | nop => exact .nop port
  | enqTxNw b => obtain rfl := eq_of_beq hport; exact .enq_encode .noWait b ((Policy.wf_enq _ _).1 hwf)
  | enqTxWf b => obtain rfl := eq_of_beq hport; exact .enq_encode .forever b ((Policy.wf_enq _ _).1 hwf)
  | enqTxWt b n => obtain rfl := eq_of_beq hport; exact .enq_encode (.upTo n) b ((Policy.wf_enq _ _).1 hwf)
  | deqRxNw => obtain rfl := eq_of_beq hport; exact .deq_encode .noWait ((Policy.wf_deq _).1 hwf)
  | deqRxWf => obtain rfl := eq_of_beq hport; exact .deq_encode .forever ((Policy.wf_deq _).1 hwf)
  | deqRxWt n => obtain rfl := eq_of_beq hport; exact .deq_encode (.upTo n) ((Policy.wf_deq _).1 hwf)
  | rxsvc b => obtain rfl := eq_of_beq hport; exact .rxsvc b
  | txsvc | armtx | armrx | ovfrd | ovfclr | lvlTx | lvlRx => obtain rfl := eq_of_beq hport; constructor

/-- Settles O2: encode writes each request's row of the operation map, and decode computes the map. -/
theorem decodeOfEncodeIsIdentity : Obligations.DecodeOfEncodeIsIdentity :=
  fun _ _ hwf hport => decode_of_spells (.encode hwf hport)

/-- Settles O3: row by row of the operation map; ENQ and DEQ by what policyOf gives back of the bits and the operand. -/
theorem decodedWordIsTheEncodedWord : Obligations.DecodedWordIsTheEncodedWord := by
  intro port w tmo i h
  cases spells_of_decode h with
  | enq bits b hres =>
    rw [reqPol_reqWord, Policy.encode_enq]
    exact ⟨(Policy.wf_enq _ b).2 (policyOf_ne_upTo_zero bits tmo), Policy.legalOn_enq _ b _,
      fun hfaithful => by rw [bits_policyOf hres hfaithful], operand_policyOf⟩
  | deq bits hres =>
    rw [reqPol_reqWord, Policy.encode_deq]
    exact ⟨(Policy.wf_deq _).2 (policyOf_ne_upTo_zero bits tmo), Policy.legalOn_deq _ _,
      fun hfaithful => by rw [bits_policyOf hres hfaithful], operand_policyOf⟩
  | nop | txsvc | rxsvc | armtx | armrx | ovfrd | ovfclr | lvlTx | lvlRx =>
    refine ⟨rfl, rfl, fun _ => rfl, fun hbits => ?_⟩
    rw [reqPol_reqWord] at hbits
    cases hbits

/-! The rejected words (30_encoding R77, R79) -/

/-- Settles O5: no row of the operation map has a word of any of the malformed families. -/
theorem malformedWordsAreIllegal : Obligations.MalformedWordsAreIllegal := by
  refine fun port w tmo hbad => exists_error_of_forall_not_spells fun i hspells => ?_
  cases hspells with
  | enq bits b hres => exact hres (by simpa using hbad)
  | deq bits hres => exact hres (by simpa using hbad)
  | rxsvc b => simp at hbad
  | nop | txsvc | armtx | armrx | ovfrd | ovfclr | lvlTx | lvlRx => revert hbad; decide

/-- Whether a port may spell an operation: D the two services and NOP, H all but the two services (30_encoding R79). -/
def opLegalOn (op : BitVec 4) : ReqPort → Bool
  | .host => op != 0x3 && op != 0x4
  | .device => op == 0x0 || op == 0x3 || op == 0x4

theorem Instr.legalOn_eq_opLegalOn (i : Instr) (port : ReqPort) : i.legalOn port = opLegalOn (reqOp i.encode.1) port := by
  cases i <;> cases port <;> simp [Instr.encode, Instr.legalOn, opLegalOn]

theorem Spells.opLegalOn_eq_true {tmo : Tmo} {port : ReqPort} {w : ReqWord} {i : Instr} (h : Spells tmo port w i) :
    opLegalOn (reqOp w) port = true := by
  cases h with
  | nop => cases port <;> rfl
  | _ => rw [reqOp_reqWord]; rfl

/-- Settles O6: a request's word has its operation code, and no port spells another port's operation. -/
theorem otherPortsWordsAreIllegal : Obligations.OtherPortsWordsAreIllegal := by
  refine fun i port hport => exists_error_of_forall_not_spells fun j hspells => ?_
  rw [i.legalOn_eq_opLegalOn, hspells.opLegalOn_eq_true] at hport
  cases hport

/-! Words of the table and the timeout of 0 (30_encoding R72 to R74) -/

/-- Settles O1: each word is the one that encode writes for its request. -/
theorem wordsDecodeAsTabled : Obligations.WordsDecodeAsTabled := by
  have hdecode := decodeOfEncodeIsIdentity
  exact ⟨hdecode .nop .host rfl rfl, hdecode .nop .device rfl rfl, hdecode (.enqTxNw 0x41) .host rfl rfl,
    hdecode (.enqTxWf 0x41) .host rfl rfl, hdecode (.enqTxWt 0x41 7) .host rfl rfl, hdecode .deqRxNw .host rfl rfl,
    hdecode .deqRxWf .host rfl rfl, hdecode (.deqRxWt 3) .host rfl rfl, hdecode .txsvc .device rfl rfl,
    hdecode (.rxsvc 0x55) .device rfl rfl, hdecode .armtx .host rfl rfl, hdecode .armrx .host rfl rfl,
    hdecode .ovfrd .host rfl rfl, hdecode .ovfclr .host rfl rfl, hdecode .lvlTx .host rfl rfl,
    hdecode .lvlRx .host rfl rfl⟩

/-- Settles O4: both statements are policyOf's, which decode reads the operand through and in no other place. -/
theorem zeroTimeoutIsNoWait : Obligations.ZeroTimeoutIsNoWait := by
  refine ⟨fun b => decode_of_spells (.enq 0b10 b (by decide)), decode_of_spells (.deq 0b10 (by decide)),
    fun port w t t' hbits => ?_⟩
  have hpol : reqPolicy w t = reqPolicy w t' := policyOf_congr_tmo hbits t t'
  rw [decode, decode, hpol]

end Sys2Proof
end

section
/-! A request word at its port: the answer to a rejected one, and the step that takes a placed one (30_encoding R74, R77,
40_queue_ops R116, 60_exceptions R242). -/

namespace Sys2Proof.Machine

theorem tryWord_of_ok {r : ReqPort} {w : ReqWord} {tmo : Tmo} {i : Instr} (h : decode r w tmo = .ok i) (s : State) :
    tryWord r w tmo s = exec i s := by
  rw [tryWord, h]

theorem tryWord_of_error {r : ReqPort} {w : ReqWord} {tmo : Tmo} {e : Illegal} (h : decode r w tmo = .error e) (s : State) :
    tryWord r w tmo s = .next (s.modPort (Port.answerIllegal r)) := by
  rw [tryWord, h]

theorem issueHost_of_free {s : State} (h : s.port.hreq = none) (w : ReqWord) (tmo : Tmo) :
    issueHost w tmo s = tryWord .host w tmo (s.accept .host) := by
  simp [issueHost, h]

theorem response_illegal : response .illegal 0 0 = 0x00000003 := by decide

theorem Port.answerIllegal_host_eq (o : Port) :
    o.answerIllegal .host = { o with hRsp := some 0x00000003, illegalIssued := true } := by
  rw [← response_illegal]; rfl

theorem Port.answerIllegal_device_eq (o : Port) :
    o.answerIllegal .device = { o with dRsp := some 0x00000003, illegalIssued := true } := by
  rw [← response_illegal]; rfl

/-- Settles O7: the rejected word is accepted and answered with the status word 3. -/
theorem illegalRequestAnswersOnly : Obligations.IllegalRequestAnswersOnly := by
  refine fun s w tmo e => ⟨fun hfree hd => ?_, fun hd => ?_⟩
  · rw [issueHost_of_free hfree, tryWord_of_error hd, State.modPort, Port.answerIllegal_host_eq]; rfl
  · rw [issueDevice, tryWord_of_error hd, State.modPort, Port.answerIllegal_device_eq]; rfl

/-! The placed word (log entries 4 and 7) -/

theorem decode_of_decodeTableWord {nbits w : Nat} {i : Instr} (h : decodeTableWord nbits w = some i) :
    decode (tablePort (tableReqWord nbits w) (tableTmo nbits w)) (tableReqWord nbits w) (tableTmo nbits w) = .ok i := by
  unfold decodeTableWord at h
  split at h
  case h_1 j hd => rw [hd, Option.some.inj h]
  case h_2 => cases h

/-- A request of port D has no TMO operand: every row of port D is one with any operand (41_device_service). -/
theorem decode_device_tmo {w : ReqWord} {tmo : Tmo} {i : Instr} (h : decode .device w tmo = .ok i) (tmo' : Tmo) :
    decode .device w tmo' = .ok i := by
  cases spells_of_decode h with
  | nop => exact decode_of_spells (.nop .device)
  | txsvc => exact decode_of_spells .txsvc
  | rxsvc b => exact decode_of_spells (.rxsvc b)

theorem onInstance_cur {s : State} (hc : s.CurOk) (f : State → Host.Outcome State Fault Refusal) :
    onInstance s.cur f s = f s :=
  (if_pos hc).trans (congrArg f (s.select_cur hc))

theorem hostWord_of_ok {s : State} {w : ReqWord} {tmo : Tmo} {i : Instr} (hseq : s.port.host.seq = none)
    (hreq : s.port.hreq = none) (hd : decode .host w tmo = .ok i) : hostWord w tmo s = exec i (s.accept .host) := by
  rw [hostWord, hseq, issueHost_of_free hreq, tryWord_of_ok hd]; rfl

theorem issueDevice_of_ok {w : ReqWord} {tmo : Tmo} {i : Instr} (hd : decode .device w tmo = .ok i) (s : State) :
    issueDevice w s = exec i (s.accept .device) :=
  tryWord_of_ok (decode_device_tmo hd 0) _

/-- Settles O39: the placed draw is taken where it was placed, with port H free there, and port D reads no operand. -/
theorem placedWordIsTheNextRequest : Obligations.PlacedWordIsTheNextRequest := by
  intro s nbits w i hc hw
  have hd := decode_of_decodeTableWord hw
  have hct : (s.withFetchWord nbits w).taken.CurOk := hc
  have hdraw : (s.withFetchWord nbits w).draw = tableDraw s.cur nbits w := rfl
  rw [step, hdraw, tableDraw]
  cases hport : tablePort (tableReqWord nbits w) (tableTmo nbits w) with
  | host =>
    rw [hport] at hd
    have hplaced : (s.withFetchWord nbits w).taken.port = s.port.readyFor .host (decodeTableWord nbits w) := by
      rw [← hport]; rfl
    rw [← hostWord_of_ok (by rw [hplaced]; rfl) (by rw [hplaced]; rfl) hd]
    exact congrArg settleOutcome (onInstance_cur hct _)
  | device =>
    rw [hport] at hd
    rw [← issueDevice_of_ok hd]
    exact congrArg settleOutcome (onInstance_cur hct _)

end Sys2Proof.Machine
end

section
/-! The host's queue transactions: the response word, the outcome of an ENQ or a DEQ by room and policy, and what each leaves alone
(30_encoding R75, R76, 40_queue_ops R100 to R115). -/

namespace Sys2Proof.Machine

/-! The response word (30_encoding R75, R76) -/

section
variable (st : Status) (d : Byte) (n : Nat)

@[simp] theorem rspStatus_response : rspStatus (response st d n) = st.code := by
  apply BitVec.eq_of_getLsbD_eq
  intro k hk
  interval_cases k <;> simp [rspStatus, response]

@[simp] theorem rspData_response : rspData (response st d n) = d := by
  apply BitVec.eq_of_getLsbD_eq
  intro k hk
  interval_cases k <;> simp [rspData, response]

/-- COUNT is RSP[31:16]. -/
theorem response_count (hn : n < 2 ^ 16) : (response st d n).toNat / 2 ^ 16 = n := by
  have hshift : response st d n >>> 16 = (BitVec.ofNat 16 n).setWidth 32 := by
    apply BitVec.eq_of_getLsbD_eq
    intro k hk
    interval_cases k <;> simp [response]
  have hcount := congrArg BitVec.toNat hshift
  rw [BitVec.toNat_ushiftRight, Nat.shiftRight_eq_div_pow, BitVec.toNat_setWidth, BitVec.toNat_ofNat,
    Nat.mod_eq_of_lt hn, Nat.mod_eq_of_lt (by omega)] at hcount
  exact hcount

end

theorem response_ok : response .ok 0 0 = 0x00000000 := by decide

theorem response_full : response .full 0 0 = 0x00000001 := by decide

theorem response_empty : response .empty 0 0 = 0x00000002 := by decide

theorem Port.respondHost_ok_eq (o : Port) : o.respondHost .ok 0 0 = { o with hRsp := some 0x00000000 } := by
  rw [← response_ok]; rfl

theorem Port.respondDevice_ok_eq (o : Port) : o.respondDevice .ok 0 0 = { o with dRsp := some 0x00000000 } := by
  rw [← response_ok]; rfl

theorem Port.respondHost_full_eq (o : Port) : o.respondHost .full 0 0 = { o with hRsp := some 0x00000001 } := by
  rw [← response_full]; rfl

theorem Port.respondHost_empty_eq (o : Port) : o.respondHost .empty 0 0 = { o with hRsp := some 0x00000002 } := by
  rw [← response_empty]; rfl

/-! ENQ and DEQ by their policy (40_queue_ops R100, R106) -/

theorem isEnq_iff {i : Instr} {b : Byte} : IsEnq i b ↔ ∃ pol : Policy, i = pol.enq b := by
  constructor
  · rintro (rfl | rfl | ⟨n, rfl⟩)
    exacts [⟨.noWait, rfl⟩, ⟨.forever, rfl⟩, ⟨.upTo n, rfl⟩]
  · rintro ⟨_ | _ | n, rfl⟩
    exacts [.inl rfl, .inr (.inl rfl), .inr (.inr ⟨n, rfl⟩)]

theorem isDeq_iff {i : Instr} : IsDeq i ↔ ∃ pol : Policy, i = pol.deq := by
  constructor
  · rintro (rfl | rfl | ⟨n, rfl⟩)
    exacts [⟨.noWait, rfl⟩, ⟨.forever, rfl⟩, ⟨.upTo n, rfl⟩]
  · rintro ⟨_ | _ | n, rfl⟩
    exacts [.inl rfl, .inr (.inl rfl), .inr (.inr ⟨n, rfl⟩)]

section
variable (pol : Policy) (b : Byte) (s : State)

theorem exec_enq : exec (pol.enq b) s = enqWith (pol.enq b) pol b s := by cases pol <;> rfl

theorem exec_deq : exec pol.deq s = deqWith pol.deq pol s := by cases pol <;> rfl

variable {s}

theorem exec_enq_of_full_reports (hfull : ¬ s.port.tx.pcount s.params < s.params.cap)
    (hpol : pol = .noWait ∨ pol = .upTo 0) : exec (pol.enq b) s = .next (s.modPort (Port.respondHost .full 0 0)) := by
  rw [exec_enq]
  rcases enqWith_cases (pol.enq b) pol b s with ⟨hroom, _⟩ | ⟨_, _, he⟩ | ⟨_, hnw, hzero, _⟩
  · exact absurd (s.txHasRoom_iff.1 hroom) hfull
  · exact he
  · exact (hpol.elim hnw hzero).elim

theorem exec_enq_of_full_holds (hfull : ¬ s.port.tx.pcount s.params < s.params.cap) (hnw : pol ≠ .noWait)
    (hzero : pol ≠ .upTo 0) : exec (pol.enq b) s = .next (s.modPort (Port.hold (pol.enq b))) := by
  rw [exec_enq]
  rcases enqWith_cases (pol.enq b) pol b s with ⟨hroom, _⟩ | ⟨_, hpol, _⟩ | ⟨_, _, _, he⟩
  · exact absurd (s.txHasRoom_iff.1 hroom) hfull
  · exact (hpol.elim hnw hzero).elim
  · exact he

theorem exec_deq_of_empty_reports (hempty : s.port.rx.ccount s.params = 0) (hpol : pol = .noWait ∨ pol = .upTo 0) :
    exec pol.deq s = .next (s.modPort (Port.respondHost .empty 0 0)) := by
  rw [exec_deq]
  rcases deqWith_cases pol.deq pol s with ⟨hbyte, _⟩ | ⟨_, _, he⟩ | ⟨_, hnw, hzero, _⟩
  · exact absurd hempty (s.rxHasByte_iff.1 hbyte).ne'
  · exact he
  · exact (hpol.elim hnw hzero).elim

theorem exec_deq_of_empty_holds (hempty : s.port.rx.ccount s.params = 0) (hnw : pol ≠ .noWait) (hzero : pol ≠ .upTo 0) :
    exec pol.deq s = .next (s.modPort (Port.hold pol.deq)) := by
  rw [exec_deq]
  rcases deqWith_cases pol.deq pol s with ⟨hbyte, _⟩ | ⟨_, hpol, _⟩ | ⟨_, _, _, he⟩
  · exact absurd hempty (s.rxHasByte_iff.1 hbyte).ne'
  · exact (hpol.elim hnw hzero).elim
  · exact he

end

section
variable {i : Instr} {b : Byte} {s t : State}

/-- Everything an ENQ can do (40_queue_ops R100). -/
theorem exec_enq_outcome (hi : IsEnq i b) (h : exec i s = .next t) :
    (s.port.tx.pcount s.params < s.params.cap ∧ t = s.enqDone b) ∨
    t = s.modPort (Port.respondHost .full 0 0) ∨ t = s.modPort (Port.hold i) := by
  obtain ⟨pol, rfl⟩ := isEnq_iff.1 hi
  rw [exec_enq] at h
  rcases enqWith_cases (pol.enq b) pol b s with ⟨hroom, he⟩ | ⟨_, _, he⟩ | ⟨_, _, _, he⟩ <;> cases he.symm.trans h
  · exact .inl ⟨s.txHasRoom_iff.1 hroom, rfl⟩
  · exact .inr (.inl rfl)
  · exact .inr (.inr rfl)

/-- Everything a DEQ can do (40_queue_ops R106). -/
theorem exec_deq_outcome (hi : IsDeq i) (h : exec i s = .next t) :
    (0 < s.port.rx.ccount s.params ∧ t = s.deqDone) ∨
    t = s.modPort (Port.respondHost .empty 0 0) ∨ t = s.modPort (Port.hold i) := by
  obtain ⟨pol, rfl⟩ := isDeq_iff.1 hi
  rw [exec_deq] at h
  rcases deqWith_cases pol.deq pol s with ⟨hbyte, he⟩ | ⟨_, _, he⟩ | ⟨_, _, _, he⟩ <;> cases he.symm.trans h
  · exact .inl ⟨s.rxHasByte_iff.1 hbyte, rfl⟩
  · exact .inr (.inl rfl)
  · exact .inr (.inr rfl)

end

/-! The slots a completed ENQ leaves (20_memory R50) -/

theorem State.slot_enqDone_same (b : Byte) (s : State) : (s.enqDone b).slot .tx (slotOf s.params s.port.tx.wptr) = b := by
  simp [State.slot]

theorem State.slot_enqDone_ne (b : Byte) (s : State) {a : Nat} (h : a ≠ slotOf s.params s.port.tx.wptr) :
    (s.enqDone b).slot .tx a = s.slot .tx a := by
  simp [State.slot, Memory.read_write_ne _ _ _ b h]

/-! The obligations on ENQ, DEQ, LVL and NOP -/

/-- Settles O11: an ENQ that completes writes one slot and advances wptr, and every other outcome writes hreq or the response. -/
theorem enqFrame : Obligations.EnqFrame := by
  intro s t i b hi h
  rcases exec_enq_outcome hi h with ⟨hroom, rfl⟩ | rfl | rfl
  · exact ⟨rfl, fun a ha => s.slot_enqDone_ne b ha, fun _ => rfl, fun hfull => absurd hroom hfull⟩
  · exact ⟨rfl, fun _ _ => rfl, fun _ => rfl, fun _ => rfl⟩
  · exact ⟨rfl, fun _ _ => rfl, fun _ => rfl, fun _ => rfl⟩

/-- Settles O15: a DEQ that completes advances rptr, and every other outcome writes hreq or the response. -/
theorem deqFrame : Obligations.DeqFrame := by
  intro s t i hi h
  rcases exec_deq_outcome hi h with ⟨hbyte, rfl⟩ | rfl | rfl
  · exact ⟨rfl, fun _ _ => rfl, fun hempty => absurd hempty hbyte.ne'⟩
  · exact ⟨rfl, fun _ _ => rfl, fun _ => rfl⟩
  · exact ⟨rfl, fun _ _ => rfl, fun _ => rfl⟩

theorem exec_nop (s : State) : exec .nop s = .next (s.modPort (Port.respondOn s.reqPort .ok 0 0)) := rfl

/-- Settles O8: NOP's word is the one row of the operation map with OP = 0, and the answer is the word 0 on the request's port. -/
theorem nopAnswersOk : Obligations.NopAnswersOk := by
  have hanswer {s : State} {r : ReqPort} (hport : s.reqPort = r) :
      exec .nop s = .next (s.modPort (Port.respondOn r .ok 0 0)) := by rw [exec_nop, hport]
  refine ⟨fun port tmo => decode_of_spells (.nop port), fun port w tmo hop hw => ?_, fun s hport => ?_, fun s hport => ?_⟩
  · refine exists_error_of_forall_not_spells fun i hspells => ?_
    cases hspells with
    | nop => exact hw rfl
    | _ => simp at hop
  · rw [hanswer hport, ← Port.respondHost_ok_eq]; rfl
  · rw [hanswer hport, ← Port.respondDevice_ok_eq]; rfl

/-- Settles O9: the completed ENQ's storage, pointer and response, field by field. -/
theorem enqStoresAndAdvances : Obligations.EnqStoresAndAdvances := by
  intro s i b hi hroom
  exact ⟨_, exec_enq_of_room hi hroom, s.slot_enqDone_same b, ptrOf_toNat _ _, congrArg some response_ok, rfl, rfl, rfl⟩

/-- Settles O10: no room, so the policy decides between FULL and the hold. -/
theorem enqReportsFullOrHolds : Obligations.EnqReportsFullOrHolds := by
  intro s b hfull
  rw [← Port.respondHost_full_eq]
  exact ⟨exec_enq_of_full_reports .noWait b hfull (.inl rfl), exec_enq_of_full_holds .forever b hfull (by simp) (by simp),
    exec_enq_of_full_reports (.upTo 0) b hfull (.inr rfl),
    fun n hn => exec_enq_of_full_holds (.upTo n) b hfull (by simp) (by simpa using hn)⟩

/-- Settles O12: the completed DEQ's response and pointer, field by field. -/
theorem deqReturnsOldestByte : Obligations.DeqReturnsOldestByte := by
  intro s i hi hbyte
  exact ⟨_, exec_deq_of_byte hi hbyte,
    ⟨_, rfl, rspStatus_response _ _ _, response_count _ _ _ (by decide), rspData_response _ _ _⟩, ptrOf_toNat _ _, rfl, rfl⟩

/-- Settles O13: no byte, so the policy decides between EMPTY and the hold. -/
theorem deqReportsEmptyOrHolds : Obligations.DeqReportsEmptyOrHolds := by
  intro s hempty
  rw [← Port.respondHost_empty_eq]
  exact ⟨exec_deq_of_empty_reports .noWait hempty (.inl rfl), exec_deq_of_empty_holds .forever hempty (by simp) (by simp),
    exec_deq_of_empty_reports (.upTo 0) hempty (.inr rfl),
    fun n hn => exec_deq_of_empty_holds (.upTo n) hempty (by simp) (by simpa using hn)⟩

/-- Settles O14: the word 0x2200 spells DEQ.RX.NW with any operand, and the accepted request finds RX empty. -/
theorem deqNoWaitOnEmptyAnswersAtOnce : Obligations.DeqNoWaitOnEmptyAnswersAtOnce := by
  intro s tmo hfree hempty
  have hdecode : decode .host 0x2200 tmo = .ok .deqRxNw := decode_of_spells (.deq 0b00 (by decide))
  rw [issueHost_of_free hfree, tryWord_of_ok hdecode, (deqReportsEmptyOrHolds (s.accept .host) hempty).1]
  rfl

/-- Settles O16: a count of a queue is below 2C, so COUNT holds it whole. -/
theorem lvlReadsOwnView : Obligations.LvlReadsOwnView := by
  intro s
  have hfits (a b : Nat) : diff2C s.params a b < 2 ^ 16 := (diff2C_lt _ _ _).trans_le (span_le _)
  exact ⟨⟨_, _, rfl, rfl, rspStatus_response _ _ _, rspData_response _ _ _, response_count _ _ _ (hfits _ _)⟩,
    ⟨_, _, rfl, rfl, rspStatus_response _ _ _, rspData_response _ _ _, response_count _ _ _ (hfits _ _)⟩⟩

end Sys2Proof.Machine
end

section
/-! Holding and completing: which requests may hold, what a request that may hold does where its condition holds and where it does
not, and how many ENQs complete before one holds (40_queue_ops R102, R116, R117). -/

namespace Sys2Proof.Machine

/-! The requests that may hold (40_queue_ops R117) -/

theorem mayHold_iff (i : Instr) :
    i.mayHold = true ↔ (∃ b, i = .enqTxWf b) ∨ (∃ b n, i = .enqTxWt b n) ∨ i = .deqRxWf ∨ ∃ n, i = .deqRxWt n := by
  cases i <;> simp [Instr.mayHold]

/-- A request that may hold is an ENQ or a DEQ of a policy that waits. -/
theorem mayHold_cases {i : Instr} (h : i.mayHold = true) :
    ∃ pol : Policy, pol ≠ .noWait ∧ ((∃ b, i = pol.enq b) ∨ i = pol.deq) := by
  rcases (mayHold_iff i).1 h with ⟨b, rfl⟩ | ⟨b, n, rfl⟩ | rfl | ⟨n, rfl⟩
  · exact ⟨.forever, by simp, .inl ⟨b, rfl⟩⟩
  · exact ⟨.upTo n, by simp, .inl ⟨b, rfl⟩⟩
  · exact ⟨.forever, by simp, .inr rfl⟩
  · exact ⟨.upTo n, by simp, .inr rfl⟩

section
variable (s : State) {pol : Policy}

theorem State.canComplete_enq (hpol : pol ≠ .noWait) (b : Byte) : s.canComplete (pol.enq b) = s.txHasRoom := by
  cases pol with
  | noWait => exact absurd rfl hpol
  | forever | upTo => rfl

theorem State.canComplete_deq (hpol : pol ≠ .noWait) : s.canComplete pol.deq = s.rxHasByte := by
  cases pol with
  | noWait => exact absurd rfl hpol
  | forever | upTo => rfl

end

section
variable {i : Instr} {s t : State}

/-- Where its condition holds, a request that may hold completes with OK. -/
theorem exec_of_canComplete (hmay : i.mayHold = true) (hcan : s.canComplete i = true) :
    ∃ t r, exec i s = .next t ∧ t.port.hreq = s.port.hreq ∧ t.port.hRsp = some r ∧ rspStatus r = 0 := by
  obtain ⟨pol, hpol, ⟨b, rfl⟩ | rfl⟩ := mayHold_cases hmay
  · rw [s.canComplete_enq hpol, s.txHasRoom_iff] at hcan
    exact ⟨_, _, exec_enq_of_room (isEnq_iff.2 ⟨pol, rfl⟩) hcan, rfl, rfl, rspStatus_response _ _ _⟩
  · rw [s.canComplete_deq hpol, s.rxHasByte_iff] at hcan
    exact ⟨_, _, exec_deq_of_byte (isDeq_iff.2 ⟨pol, rfl⟩) hcan, rfl, rfl, rspStatus_response _ _ _⟩

/-- Where its condition is false, a well-formed request that may hold holds. -/
theorem exec_of_not_canComplete (hmay : i.mayHold = true) (hwf : i.wf = true) (hcan : s.canComplete i = false) :
    exec i s = .next (s.modPort (Port.hold i)) := by
  obtain ⟨pol, hpol, ⟨b, rfl⟩ | rfl⟩ := mayHold_cases hmay
  · rw [s.canComplete_enq hpol] at hcan
    exact exec_enq_of_full_holds pol b (mt s.txHasRoom_iff.2 (ne_true_of_eq_false hcan)) hpol ((Policy.wf_enq pol b).1 hwf)
  · rw [s.canComplete_deq hpol] at hcan
    have hempty : ¬ 0 < s.port.rx.ccount s.params := mt s.rxHasByte_iff.2 (ne_true_of_eq_false hcan)
    exact exec_deq_of_empty_holds pol (Nat.eq_zero_of_not_pos hempty) hpol ((Policy.wf_deq pol).1 hwf)

/-! The complete step and the issue step while a request is held (40_queue_ops R116) -/

/-- A completion condition reads the queues only, not hreq. -/
theorem State.canComplete_unheld (i : Instr) (s : State) :
    State.canComplete { s with port := { s.port with hreq := none } } i = s.canComplete i := by
  cases i <;> rfl

theorem completeHeld_of_held (h : s.port.hreq = some i) :
    completeHeld s = exec i { s with port := { s.port with hreq := none } } := by
  rw [completeHeld, h]

/-- Holding the held request again gives the machine back. -/
theorem State.hold_unheld (h : s.port.hreq = some i) :
    State.modPort (Port.hold i) { s with port := { s.port with hreq := none } } = s := by
  rw [State.modPort, Port.hold, ← h]

theorem issueHost_of_held (h : s.port.hreq = some i) (w : ReqWord) (tmo : Tmo) : issueHost w tmo s = .next s := by
  rw [issueHost, h]; rfl

/-! Who writes hreq, and who answers (40_queue_ops R117) -/

theorem exec_hreq_cases (h : exec i s = .next t) : t.port.hreq = s.port.hreq ∨ i.mayHold = true := by
  cases exec_move i s t h with
  | hold hmay _ _ => exact .inr hmay
  | _ => exact .inl (by simp)

theorem exec_enqTxNw_answers {b : Byte} (h : exec (.enqTxNw b) s = .next t) : t.port.hRsp ≠ none := by
  by_cases hroom : s.port.tx.pcount s.params < s.params.cap
  · cases (exec_enq_of_room (.inl rfl) hroom).symm.trans h
    simp
  · cases (exec_enq_of_full_reports .noWait b hroom (.inl rfl)).symm.trans h
    simp

theorem exec_deqRxNw_answers (h : exec .deqRxNw s = .next t) : t.port.hRsp ≠ none := by
  rcases Nat.eq_zero_or_pos (s.port.rx.ccount s.params) with hempty | hbyte
  · cases (exec_deq_of_empty_reports .noWait hempty (.inl rfl)).symm.trans h
    simp
  · cases (exec_deq_of_byte (.inl rfl) hbyte).symm.trans h
    simp

theorem exec_txsvc_answers (hen : s.txsvcEnabled = true) (h : exec .txsvc s = .next t) : t.port.dRsp ≠ none := by
  simp only [exec, execTxsvc, if_pos hen] at h
  split_ifs at h <;> cases h <;> simp

theorem exec_rxsvc_answers {b : Byte} (hen : s.rxsvcEnabled b = true) (h : exec (.rxsvc b) s = .next t) :
    t.port.dRsp ≠ none := by
  simp only [exec, execRxsvc, if_pos hen] at h
  split_ifs at h <;> cases h <;> simp

end

/-- Settles O29: exec's only move that writes hreq is the hold of a request that may hold, and each other transaction's answer is
read off its outcomes. -/
theorem onlyWaitingRequestsHold : Obligations.OnlyWaitingRequestsHold := by
  intro s t i h
  refine ⟨fun hne => (mayHold_iff i).1 ((exec_hreq_cases h).resolve_left hne), fun hi _ => ?host, fun hi _ => ?device⟩
  case host =>
    rcases hi with ⟨b, rfl⟩ | hi | ⟨rfl, hport⟩
    · exact exec_enqTxNw_answers h
    · simp only [List.mem_cons, List.not_mem_nil, or_false] at hi
      rcases hi with rfl | rfl | rfl | rfl | rfl | rfl | rfl
      · exact exec_deqRxNw_answers h
      all_goals cases h; simp
    · rw [exec_nop, hport] at h
      cases h; simp [Port.respondOn]
  case device =>
    rcases hi with ⟨rfl, hie, hready⟩ | ⟨b, rfl, hie, hdata, hbyte⟩ | ⟨rfl, hport⟩
    · exact exec_txsvc_answers (by simp [State.txsvcEnabled, hie, hready]) h
    · exact exec_rxsvc_answers (by simp [State.rxsvcEnabled, hie, hdata, hbyte]) h
    · rw [exec_nop, hport] at h
      cases h; simp [Port.respondOn]

/-- Settles O30: the complete step tries the held request on a free port, where it completes or holds by the same condition. -/
theorem heldRequestCompletes : Obligations.HeldRequestCompletes := by
  intro s i hheld hmay hwf
  rw [completeHeld_of_held hheld, ← s.canComplete_unheld i]
  refine ⟨fun hcan => ?_, fun hcan => ?_⟩
  · obtain ⟨t, r, ht, hreq, hrsp, hok⟩ := exec_of_canComplete hmay hcan
    exact ⟨t, r, ht, ht, hreq, hrsp, hok⟩
  · rw [exec_of_not_canComplete hmay hwf hcan, State.hold_unheld hheld]

/-- Settles O31: the issue step asks for no held request before it looks at the word. -/
theorem heldRequestBlocksPort : Obligations.HeldRequestBlocksPort :=
  fun _ _ w tmo hheld => issueHost_of_held hheld w tmo

/-! C ENQs fill the queue (40_queue_ops R102) -/

theorem execAll_cons_of_next {i : Instr} {is : List Instr} {s t : State} (h : exec i s = .next t) :
    execAll (i :: is) s = execAll is t := by
  rw [execAll, h]

/-- As many ENQs as the producer sees room for complete, each with OK. -/
theorem execAll_enqs (is : List Instr) (s : State) (henq : ∀ i ∈ is, ∃ b, IsEnq i b)
    (hroom : s.port.tx.pcount s.params + is.length ≤ s.params.cap) :
    ∃ t, execAll is s = .next t ∧ t.params = s.params ∧
      t.port.tx.pcount s.params = s.port.tx.pcount s.params + is.length ∧ t.port.hreq = s.port.hreq ∧
      (s.port.hRsp = some 0x00000000 ∨ is ≠ [] → t.port.hRsp = some 0x00000000) := by
  induction is generalizing s with
  | nil => exact ⟨s, rfl, rfl, rfl, rfl, fun h => h.resolve_right (· rfl)⟩
  | cons i is ih =>
    obtain ⟨⟨b, hi⟩, his⟩ := List.forall_mem_cons.1 henq
    rw [List.length_cons] at hroom ⊢
    have hdone : exec i s = .next (s.enqDone b) := exec_enq_of_room hi (by omega)
    have hcount : (s.enqDone b).port.tx.pcount s.params = s.port.tx.pcount s.params + 1 :=
      Queue.pcount_enqueue _ _ b (by rw [span_eq]; omega)
    obtain ⟨t, ht, hparams, hlen, hreq, hrsp⟩ := ih (s.enqDone b) his (by rw [State.enqDone_params, hcount]; omega)
    rw [State.enqDone_params, hcount] at hlen
    exact ⟨t, (execAll_cons_of_next hdone).trans ht, hparams, by omega, hreq,
      fun _ => hrsp (.inl (congrArg some response_ok))⟩

/-- Settles O52: from an empty view there is room for C ENQs, and after them for none. -/
theorem capacityEnqueuesComplete : Obligations.CapacityEnqueuesComplete := by
  intro s is henq hempty
  refine ⟨fun hlen => ?_, fun hlen => ?_⟩
  · obtain ⟨t, ht, _, hcount, hreq, hrsp⟩ := execAll_enqs is s henq (by omega)
    exact ⟨t, ht, by omega, hreq, fun hne => hrsp (.inr hne)⟩
  · obtain ⟨t, ht, hparams, hcount, _, _⟩ := execAll_enqs is s henq (by omega)
    have hfull : ¬ t.port.tx.pcount t.params < t.params.cap := by rw [hparams]; omega
    exact ⟨t, ht, fun b => exec_enq_of_full_holds .forever b hfull (by simp) (by simp)⟩

end Sys2Proof.Machine
end

section
/-! The step of a placed draw, event by event, and the host sequence's move (20_memory R60, 30_encoding R74, R81, 40_queue_ops R116,
44_host_sequences). -/

namespace Sys2Proof.Machine

/-! The step of a placed draw (log entry 3) -/

section
variable {s : State} {inp : Inputs} {rest : List Draw}

theorem step_of_placed {e : Event} (h : s.inbox = ⟨inp, e⟩ :: rest) : step s = settleOutcome (runEvent e s.taken) := by
  rw [step, State.draw, h]

theorem onInstance_of_lt {j : Nat} (hj : j < s.nports) (f : State → Host.Outcome State Fault Refusal) :
    onInstance j f s = f (s.select j) :=
  if_pos hj

theorem hostWord_of_error {w : ReqWord} {tmo : Tmo} {e : Illegal} (hseq : s.port.host.seq = none)
    (hreq : s.port.hreq = none) (hd : decode .host w tmo = .error e) :
    hostWord w tmo s = .next ((s.accept .host).modPort (Port.answerIllegal .host)) := by
  rw [hostWord, hseq, issueHost_of_free hreq, tryWord_of_error hd]; rfl

/-- Port H accepts no word while a request is held or a host sequence runs (40_queue_ops R116, log entries 5 and 14). -/
theorem hostWord_of_busy (h : s.port.hreq ≠ none ∨ s.port.host.seq ≠ none) (w : ReqWord) (tmo : Tmo) :
    hostWord w tmo s = .next s := by
  unfold hostWord
  split_ifs with hseq
  · rfl
  · have hidle : s.port.host.seq = none := by simpa using hseq
    obtain ⟨i, hi⟩ := Option.ne_none_iff_exists'.1 (h.resolve_right (· hidle))
    exact issueHost_of_held hi w tmo

end

/-- Settles O38: the step of a placed draw is its event's operation at the instance it names, settled. -/
theorem stepRunsTheDecodedRequest : Obligations.StepRunsTheDecodedRequest := by
  intro s rest inp
  refine ⟨fun j w tmo c hj => ?_, fun portId c hin => step_of_placed hin, fun hin => step_of_placed hin⟩
  have hat {e : Event} {f : State → Host.Outcome State Fault Refusal} (he : runEvent e s.taken = onInstance j f s.taken)
      (hin : s.inbox = ⟨inp, e⟩ :: rest) : step s = settleOutcome (f (s.taken.select j)) := by
    rw [step_of_placed hin, he, onInstance_of_lt (s := s.taken) hj]
  refine ⟨fun hin => ?host, fun hin => ?device, hat (f := fun t => .next (t.syncStep c)) rfl,
    hat (f := fun t => .next t.timeoutStep) rfl, hat rfl, hat rfl⟩
  case host =>
    have hstep : step s = settleOutcome (hostWord w tmo (s.taken.select j)) := hat rfl hin
    refine ⟨fun hreq hseq => ⟨fun i hd => ?_, fun e hd => ?_⟩, fun hbusy => ?_⟩
    · rw [hstep, hostWord_of_ok hseq hreq hd]
    · rw [hstep, hostWord_of_error hseq hreq hd]; rfl
    · rw [hstep, hostWord_of_busy hbusy]; rfl
  case device =>
    have hstep : step s = settleOutcome (issueDevice w (s.taken.select j)) := hat rfl hin
    refine ⟨fun i hd => ?_, fun e hd => ?_⟩
    · rw [hstep, issueDevice_of_ok hd]
    · rw [hstep, issueDevice, tryWord_of_error hd]; rfl

/-! The host sequence's move (44_host_sequences, log entry 14) -/

section
variable {s : State} {q : HostSeq}

theorem driverStep_of_held (hseq : s.port.host.seq = some q) (hheld : s.port.hreq ≠ none) : driverStep s = .next s := by
  simp [driverStep, hseq, Option.isSome_iff_ne_none, hheld]

theorem driverStep_of_issue {i : Instr} (hseq : s.port.host.seq = some q) (hfree : s.port.hreq = none)
    (hawaits : s.port.host.awaiting = false) (hmove : q.move s.port.host.autocrlf = .issue i) :
    driverStep s = issueHost i.encode.1 i.encode.2 (s.modHost fun h => { h with awaiting := true }) := by
  simp [driverStep, hseq, hfree, hawaits, hmove]

theorem driverStep_of_unanswered (hseq : s.port.host.seq = some q) (hfree : s.port.hreq = none)
    (hawaits : s.port.host.awaiting = true) (hrsp : s.port.hRsp = none) : driverStep s = .next s := by
  simp [driverStep, hseq, hfree, hawaits, hrsp]

end

/-- Settles O58: the three branches of the move; the word it presents finds port H free. -/
theorem sequencePresentsItsTransactions : Obligations.SequencePresentsItsTransactions := by
  intro s q hseq
  refine ⟨driverStep_of_held hseq, fun hfree hawaits i hmove => ?_, driverStep_of_unanswered hseq⟩
  rw [driverStep_of_issue hseq hfree hawaits hmove]
  exact issueHost_of_free (s := s.modHost _) hfree _ _

end Sys2Proof.Machine
end

section
/-! The device services: every outcome of TXSVC and of RXSVC, what each may change, and that neither reads what the other changes
(41_device_service R130, R134, R138, R139). -/

namespace Sys2Proof.Machine

/-! The conditions as the register and input values they compare (41_device_service R130, R134, R138) -/

theorem State.txEmpty_iff (s : State) : s.txEmpty = true ↔ s.port.tx.ccount s.params = 0 := by
  simp [State.txEmpty, Queue.emptyC]

theorem State.rxFull_iff (s : State) : s.rxFull = true ↔ s.port.rx.pcount s.params = s.params.cap := by
  simp [State.rxFull, Queue.fullP]

theorem State.txsvcEnabled_iff (s : State) : s.txsvcEnabled = true ↔ s.port.txIe = true ∧ s.inputs.txReady = true := by
  simp [State.txsvcEnabled]

theorem State.rxsvcEnabled_iff (s : State) (b : Byte) :
    s.rxsvcEnabled b = true ↔ s.port.rxIe = true ∧ s.inputs.rxHasData = true ∧ s.inputs.rxByte = b := by
  simp [State.rxsvcEnabled, and_assoc]

section
variable {s t : State} {b : Byte}

/-! The outcomes that move no byte, beside `exec_txsvc_of_byte` and `exec_rxsvc_of_room` -/

theorem exec_txsvc_of_empty (hen : s.txsvcEnabled = true) (hempty : s.port.tx.ccount s.params = 0) :
    exec .txsvc s = .next s.txsvcIdle := by
  simp [exec, execTxsvc, hen, s.txEmpty_iff.2 hempty]

theorem exec_txsvc_of_not_enabled (hen : ¬ s.txsvcEnabled = true) : exec .txsvc s = .next s := if_neg hen

theorem exec_rxsvc_of_full (hen : s.rxsvcEnabled b = true) (hfull : s.port.rx.pcount s.params = s.params.cap) :
    exec (.rxsvc b) s = .next (s.rxsvcDrop b) := by
  simp [exec, execRxsvc, hen, s.rxFull_iff.2 hfull]

theorem exec_rxsvc_of_not_enabled (hen : ¬ s.rxsvcEnabled b = true) : exec (.rxsvc b) s = .next s := if_neg hen

/-- Everything a TXSVC can do (41_device_service R130, R138). -/
theorem exec_txsvc_outcome (h : exec .txsvc s = .next t) :
    (¬ s.txsvcEnabled = true ∧ t = s) ∨
    (s.txsvcEnabled = true ∧ s.port.tx.ccount s.params = 0 ∧ t = s.txsvcIdle) ∨
    (s.txsvcEnabled = true ∧ s.port.tx.ccount s.params ≠ 0 ∧ t = s.txsvcSend) := by
  by_cases hen : s.txsvcEnabled = true
  · by_cases hempty : s.port.tx.ccount s.params = 0
    · cases (exec_txsvc_of_empty hen hempty).symm.trans h
      exact .inr (.inl ⟨hen, hempty, rfl⟩)
    · cases (exec_txsvc_of_byte hen hempty).symm.trans h
      exact .inr (.inr ⟨hen, hempty, rfl⟩)
  · cases (exec_txsvc_of_not_enabled hen).symm.trans h
    exact .inl ⟨hen, rfl⟩

/-- Everything an RXSVC can do (41_device_service R134, R138). -/
theorem exec_rxsvc_outcome (h : exec (.rxsvc b) s = .next t) :
    (¬ s.rxsvcEnabled b = true ∧ t = s) ∨
    (s.rxsvcEnabled b = true ∧ s.port.rx.pcount s.params = s.params.cap ∧ t = s.rxsvcDrop b) ∨
    (s.rxsvcEnabled b = true ∧ s.port.rx.pcount s.params ≠ s.params.cap ∧ t = s.rxsvcStore b) := by
  by_cases hen : s.rxsvcEnabled b = true
  · by_cases hfull : s.port.rx.pcount s.params = s.params.cap
    · cases (exec_rxsvc_of_full hen hfull).symm.trans h
      exact .inr (.inl ⟨hen, hfull, rfl⟩)
    · cases (exec_rxsvc_of_room hen hfull).symm.trans h
      exact .inr (.inr ⟨hen, hfull, rfl⟩)
  · cases (exec_rxsvc_of_not_enabled hen).symm.trans h
    exact .inl ⟨hen, rfl⟩

end

/-! The slots a completed RXSVC leaves (20_memory R50) -/

theorem State.slot_rxsvcStore_same (b : Byte) (s : State) :
    (s.rxsvcStore b).slot .rx (slotOf s.params s.port.rx.wptr) = b := by
  simp [State.slot]

theorem State.slot_rxsvcStore_ne (b : Byte) (s : State) {a : Nat} (h : a ≠ slotOf s.params s.port.rx.wptr) :
    (s.rxsvcStore b).slot .rx a = s.slot .rx a := by
  simp [State.slot, Memory.read_write_ne _ _ _ b h]

/-! The two footprints -/

/-- All that TXSVC may change of an instance, taken from another (41_device_service R130). -/
def Port.takeTxsvc (src o : Port) : Port :=
  { o with tx := { o.tx with rptr := src.tx.rptr }, txIe := src.txIe, txOut := src.txOut, dRsp := src.dRsp }

/-- All that RXSVC may change of an instance, taken from another (41_device_service R134). -/
def Port.takeRxsvc (src o : Port) : Port :=
  { o with rx := { o.rx with mem := src.rx.mem, wptr := src.rx.wptr }, ovf := src.ovf, rxRead := src.rxRead,
           dRsp := src.dRsp }

/-- An instance with another latest D response (log entry 9). -/
def Port.withDRsp (r : Option RspWord) (o : Port) : Port := { o with dRsp := r }

section
variable {s t t' : State} {b : Byte}

theorem exec_txsvc_footprint (h : exec .txsvc s = .next t) : t = s.modPort t.port.takeTxsvc := by
  rcases exec_txsvc_outcome h with ⟨_, rfl⟩ | ⟨_, _, rfl⟩ | ⟨_, _, rfl⟩ <;> rfl

theorem exec_rxsvc_footprint (h : exec (.rxsvc b) s = .next t) : t = s.modPort t.port.takeRxsvc := by
  rcases exec_rxsvc_outcome h with ⟨_, rfl⟩ | ⟨_, _, rfl⟩ | ⟨_, _, rfl⟩ <;> rfl

/-- TXSVC reads nothing that RXSVC may change: its outcome is the same after any such change (41_device_service R139). -/
theorem exec_txsvc_takeRxsvc (src : Port) (h : exec .txsvc s = .next t)
    (h' : exec .txsvc (s.modPort src.takeRxsvc) = .next t') :
    ∃ r, t' = t.modPort fun o => (src.takeRxsvc o).withDRsp r := by
  rcases exec_txsvc_outcome h with ⟨hen, rfl⟩ | ⟨hen, hempty, rfl⟩ | ⟨hen, hbyte, rfl⟩
  · cases (exec_txsvc_of_not_enabled (s := t.modPort src.takeRxsvc) hen).symm.trans h'
    exact ⟨_, rfl⟩
  · cases (exec_txsvc_of_empty (s := s.modPort src.takeRxsvc) hen hempty).symm.trans h'
    exact ⟨_, rfl⟩
  · cases (exec_txsvc_of_byte (s := s.modPort src.takeRxsvc) hen hbyte).symm.trans h'
    exact ⟨_, rfl⟩

/-- RXSVC reads nothing that TXSVC may change: its outcome is the same after any such change (41_device_service R139). -/
theorem exec_rxsvc_takeTxsvc (src : Port) (h : exec (.rxsvc b) s = .next t)
    (h' : exec (.rxsvc b) (s.modPort src.takeTxsvc) = .next t') :
    ∃ r, t' = t.modPort fun o => (src.takeTxsvc o).withDRsp r := by
  rcases exec_rxsvc_outcome h with ⟨hen, rfl⟩ | ⟨hen, hfull, rfl⟩ | ⟨hen, hroom, rfl⟩
  · cases (exec_rxsvc_of_not_enabled (s := t.modPort src.takeTxsvc) hen).symm.trans h'
    exact ⟨_, rfl⟩
  · cases (exec_rxsvc_of_full (s := s.modPort src.takeTxsvc) hen hfull).symm.trans h'
    exact ⟨_, rfl⟩
  · cases (exec_rxsvc_of_room (s := s.modPort src.takeTxsvc) hen hroom).symm.trans h'
    exact ⟨_, rfl⟩

end

theorem response_idle : response .idle 0 0 = 0x00000005 := by decide

theorem response_dropped : response .dropped 0 0 = 0x00000004 := by decide

theorem Port.disarm_txIe_eq_false (o : Port) : o.disarm.txIe = false := by simp [txIeNext]

/-! The obligations on the device services -/

/-- Settles O20: each outcome stays inside its service's footprint, and only the RXSVC that stores writes a slot. -/
theorem deviceServiceFrames : Obligations.DeviceServiceFrames := by
  intro s t
  refine ⟨fun h => ⟨exec_txsvc_footprint h, ?tx⟩, fun b h => ⟨exec_rxsvc_footprint h, ?rx⟩⟩
  case tx =>
    rcases exec_txsvc_outcome h with ⟨_, rfl⟩ | ⟨_, _, rfl⟩ | ⟨_, _, rfl⟩ <;> exact fun _ _ => rfl
  case rx =>
    rcases exec_rxsvc_outcome h with ⟨_, rfl⟩ | ⟨_, _, rfl⟩ | ⟨_, hroom, rfl⟩
    · exact ⟨fun _ _ => rfl, fun _ => rfl, fun _ => rfl⟩
    · exact ⟨fun _ _ => rfl, fun _ => rfl, fun _ => rfl⟩
    · exact ⟨fun a ha => s.slot_rxsvcStore_ne b ha, fun _ => rfl, fun hfull => absurd hfull hroom⟩

/-- Settles O21: each service changes its footprint alone, which the other does not read, so its outcome after the other is its
outcome before it; the footprints overlap in the D response only. -/
theorem deviceServicesCommute : Obligations.DeviceServicesCommute := by
  intro s t₁ t₂ u₁ u₂ b ht₁ ht₂ hu₁ hu₂
  obtain ⟨p, rfl⟩ : ∃ p : Port, t₁ = s.modPort p.takeTxsvc := ⟨_, exec_txsvc_footprint ht₁⟩
  obtain ⟨q, rfl⟩ : ∃ q : Port, u₁ = s.modPort q.takeRxsvc := ⟨_, exec_rxsvc_footprint hu₁⟩
  obtain ⟨_, rfl⟩ := exec_rxsvc_takeTxsvc p hu₁ ht₂
  obtain ⟨_, rfl⟩ := exec_txsvc_takeRxsvc q ht₁ hu₂
  rfl

/-- Settles O17: an enabled TXSVC has the two outcomes, told apart by ccount(TX). -/
theorem txsvcEmitsOrDisarms : Obligations.TxsvcEmitsOrDisarms := by
  intro s hie hready
  have hen := s.txsvcEnabled_iff.2 ⟨hie, hready⟩
  refine ⟨fun hempty => ?idle, fun hbyte => ?send⟩
  case idle =>
    rw [exec_txsvc_of_empty hen hempty, ← response_idle, ← Port.disarm_txIe_eq_false s.port]
    rfl
  case send =>
    exact ⟨_, _, _, exec_txsvc_of_byte hen hbyte, rfl, rfl, hie, ptrOf_toNat _ _, rfl, rspStatus_response _ _ _,
      rspData_response _ _ _⟩

/-- Settles O18: an enabled RXSVC has the two outcomes, told apart by pcount(RX); both read the byte. -/
theorem rxsvcStoresOrDrops : Obligations.RxsvcStoresOrDrops := by
  intro s b hie hdata hbyte
  have hen := (s.rxsvcEnabled_iff b).2 ⟨hie, hdata, hbyte⟩
  refine ⟨fun hfull => ?drop, fun hroom => ?store⟩
  case drop =>
    rw [exec_rxsvc_of_full hen hfull, ← response_dropped]
    rfl
  case store =>
    exact ⟨_, exec_rxsvc_of_room hen hroom, s.slot_rxsvcStore_same b, ptrOf_toNat _ _, rfl, rfl, congrArg some response_ok⟩

/-- Settles O19: each condition denied denies the service's enable, and a service not enabled leaves the machine as it is. -/
theorem deviceServiceNotEnabledHasNoStep : Obligations.DeviceServiceNotEnabledHasNoStep := by
  intro s
  refine ⟨fun hno => exec_txsvc_of_not_enabled ?_, fun b hno => exec_rxsvc_of_not_enabled ?_⟩
  · rw [s.txsvcEnabled_iff]
    rintro ⟨hie, hready⟩
    simp [hie, hready] at hno
  · rw [s.rxsvcEnabled_iff]
    rintro ⟨hie, hdata, hbyte⟩
    simp [hie, hdata, hbyte] at hno

end Sys2Proof.Machine
end

section
/-! The interrupt arms and the overflow flag: the next state of each flag transaction, what every request does to the five flags, and
that the flag and level transactions change flags and responses only (10_state R30 to R34, 42_irq_and_flag R150 to R159). -/

namespace Sys2Proof.Machine

theorem Port.arm_of_bypassed {p : Params} (h : p.sync = .bypassed) (o : Port) : o.arm p = { o with txIe := true } := by
  simp [Port.arm, h, SyncStages.isBypassed, txIeNext]

theorem Port.arm_of_chain {p : Params} {n : Nat} (h : p.sync = .chain n) (o : Port) :
    o.arm p = { o with armReq := true } := by
  simp [Port.arm, h, SyncStages.isBypassed]

theorem Port.arm_eq (p : Params) (o : Port) :
    o.arm p = { o with txIe := (o.arm p).txIe, armReq := (o.arm p).armReq } := by
  unfold Port.arm; split <;> rfl

theorem exec_armtx (s : State) : exec .armtx s = .next (s.modPort fun o => (o.arm s.params).respondHost .ok 0 0) := rfl

/-- The answer of OVFRD and OVFCLR: the bit they report is RSP[8] (42_irq_and_flag R155, R157). -/
theorem response_ok_bitByte (b : Bool) : response .ok (bitByte b) 0 = if b then 0x00000100 else 0x00000000 := by
  cases b <;> decide

/-! The next state of each flag transaction (42_irq_and_flag R150 to R157) -/

/-- Settles O22: the arm's write by the number of clock domains, then the answer OK. -/
theorem armtxArms : Obligations.ArmtxArms := by
  intro s
  refine ⟨fun hsync => ?bypassed, fun n hsync => ?chain⟩
  case bypassed =>
    rw [exec_armtx, State.modPort, Port.arm_of_bypassed hsync, Port.respondHost_ok_eq]
  case chain =>
    rw [exec_armtx, State.modPort, Port.arm_of_chain hsync, Port.respondHost_ok_eq]

/-- Settles O23: in either configuration the first ARMTX has stored the constant the second one stores. -/
theorem armtxIsIdempotent : Obligations.ArmtxIsIdempotent := by
  intro s t h
  cases hsync : s.params.sync with
  | bypassed =>
    cases ((armtxArms s).1 hsync).symm.trans h
    exact ⟨(armtxArms _).1 hsync, fun _ => rfl, nofun⟩
  | chain n =>
    cases ((armtxArms s).2 n hsync).symm.trans h
    exact ⟨(armtxArms _).2 n hsync, nofun, fun _ _ => rfl⟩

/-- Settles O24: ARMRX's write does not ask for the configuration; its answer is the word of OK. -/
theorem armrxEnablesReceive : Obligations.ArmrxEnablesReceive := by
  intro s
  rw [← response_ok]
  rfl

/-- Settles O25: the answer's word for ovf_h is the whole step. -/
theorem ovfrdReadsView : Obligations.OvfrdReadsView := by
  intro s
  rw [← response_ok_bitByte]
  rfl

/-- Settles O26: the answer is formed from ovf before the clear. -/
theorem ovfclrReadsAndClears : Obligations.OvfclrReadsAndClears := by
  intro s
  rw [← response_ok_bitByte]
  rfl

/-! Every request's effect on the flags (10_state R30 to R34, 42_irq_and_flag R159) -/

section
variable {i : Instr} {s t : State}

/-- What a request does to the five flags, by the request: one of the five steps that write one, or nothing. -/
inductive FlagEffect (i : Instr) (s : State) : State → Prop where
  | arm (hi : i = .armtx) : FlagEffect i s (s.modPort fun o => (o.arm s.params).respondHost .ok 0 0)
  | enableRx (hi : i = .armrx) : FlagEffect i s (s.modPort fun o => o.enableRx.respondHost .ok 0 0)
  | clearOvf (hi : i = .ovfclr) : FlagEffect i s (s.modPort fun o => o.clearOvf.respondHost .ok (bitByte o.ovf) 0)
  | disarm (hi : i = .txsvc) (hempty : s.port.tx.ccount s.params = 0) : FlagEffect i s s.txsvcIdle
  | drop (b : Byte) (hi : i = .rxsvc b) (hfull : s.port.rx.pcount s.params = s.params.cap) : FlagEffect i s (s.rxsvcDrop b)
  | keep (t : State) (htxIe : t.port.txIe = s.port.txIe) (harmReq : t.port.armReq = s.port.armReq)
      (hrxIe : t.port.rxIe = s.port.rxIe) (hovf : t.port.ovf = s.port.ovf) (hovfH : t.port.ovfH = s.port.ovfH) :
      FlagEffect i s t

theorem exec_enq_flagEffect {b : Byte} (hi : IsEnq i b) (h : exec i s = .next t) : FlagEffect i s t := by
  rcases exec_enq_outcome hi h with ⟨_, rfl⟩ | rfl | rfl <;> exact .keep _ rfl rfl rfl rfl rfl

theorem exec_deq_flagEffect (hi : IsDeq i) (h : exec i s = .next t) : FlagEffect i s t := by
  rcases exec_deq_outcome hi h with ⟨_, rfl⟩ | rfl | rfl <;> exact .keep _ rfl rfl rfl rfl rfl

theorem exec_flagEffect (h : exec i s = .next t) : FlagEffect i s t := by
  cases i with
  | enqTxNw b => exact exec_enq_flagEffect (.inl rfl) h
  | enqTxWf b => exact exec_enq_flagEffect (.inr (.inl rfl)) h
  | enqTxWt b n => exact exec_enq_flagEffect (.inr (.inr ⟨n, rfl⟩)) h
  | deqRxNw => exact exec_deq_flagEffect (.inl rfl) h
  | deqRxWf => exact exec_deq_flagEffect (.inr (.inl rfl)) h
  | deqRxWt n => exact exec_deq_flagEffect (.inr (.inr ⟨n, rfl⟩)) h
  | txsvc =>
    rcases exec_txsvc_outcome h with ⟨_, rfl⟩ | ⟨_, hempty, rfl⟩ | ⟨_, _, rfl⟩
    · exact .keep _ rfl rfl rfl rfl rfl
    · exact .disarm rfl hempty
    · exact .keep _ rfl rfl rfl rfl rfl
  | rxsvc b =>
    rcases exec_rxsvc_outcome h with ⟨_, rfl⟩ | ⟨_, hfull, rfl⟩ | ⟨_, _, rfl⟩
    · exact .keep _ rfl rfl rfl rfl rfl
    · exact .drop b rfl hfull
    · exact .keep _ rfl rfl rfl rfl rfl
  | armtx => cases h; exact .arm rfl
  | armrx => cases h; exact .enableRx rfl
  | ovfclr => cases h; exact .clearOvf rfl
  | nop => cases h; exact .keep _ (by simp) (by simp) (by simp) (by simp) (by simp)
  | ovfrd | lvlTx | lvlRx => cases h; exact .keep _ rfl rfl rfl rfl rfl

end

/-- Settles O28: the effect that writes a flag names the request and its condition. -/
theorem flagSourcesAmongTransactions : Obligations.FlagSourcesAmongTransactions := by
  intro s t i h
  cases exec_flagEffect h with
  | arm hi =>
    cases hsync : s.params.sync <;> simp [hi, Port.arm_txIe, Port.arm_armReq, hsync, SyncStages.isBypassed]
  | enableRx hi => simp [hi]
  | clearOvf hi => simp [hi]
  | disarm hi hempty => simp [hi, hempty, txIeNext]
  | drop b hi hfull => simp [hi, hfull]
  | keep _ htxIe harmReq hrxIe hovf hovfH => simp [htxIe, harmReq, hrxIe, hovf, hovfH]

/-! The frame of the flag and level transactions (40_queue_ops R112, R115, 42_irq_and_flag R150 to R157) -/

/-- Settles O27: each of the seven answers on one port and writes its own flags beside that, which no slot is read from. -/
theorem flagTransactionsFrame : Obligations.FlagTransactionsFrame := by
  intro s t i hi h
  cases i with
  | armtx =>
    rw [exec_armtx, State.modPort, Port.arm_eq] at h
    cases h
    exact ⟨rfl, by simp [State.slot]⟩
  | armrx | ovfclr | ovfrd | lvlTx | lvlRx =>
    cases h
    exact ⟨rfl, by simp [State.slot]⟩
  | nop =>
    obtain ⟨-, -, hhost, hdevice⟩ := nopAnswersOk
    obtain hport | hport : s.reqPort = .host ∨ s.reqPort = .device := by cases s.reqPort <;> simp
    · cases (hhost s hport).symm.trans h
      exact ⟨rfl, by simp [hport, State.slot]⟩
    · cases (hdevice s hport).symm.trans h
      exact ⟨rfl, by simp [hport, State.slot]⟩
  | enqTxNw | enqTxWf | enqTxWt | deqRxNw | deqRxWf | deqRxWt | txsvc | rxsvc => simp at hi

end Sys2Proof.Machine
end

section
/-! The synchronizer and the TMO step: the gray code's single-bit steps, each crossing's next state, the views of the overflow flag and
of one clock domain as invariants of every step, and when a timeout ends a hold (43_sync_steps R181 to R190). -/

namespace Sys2Proof.Machine

section
variable (p : Params) (o : Port)

/-! The gray code of a pointer (43_sync_steps R188, 00_scope R12) -/

theorem grayOf_eq (v : Ptr) : grayOf p v = b2g (BitVec.ofNat 16 (v.toNat % p.span)) := by
  rw [grayOf, ptrOf, ptrVal, Nat.mod_mod]

@[simp] theorem grayOf_zero : grayOf p 0#16 = 0#16 := by
  rw [grayOf_eq, BitVec.toNat_ofNat, Nat.zero_mod]; decide

theorem b2g_xor (x y : Ptr) : b2g (x ^^^ y) = b2g x ^^^ b2g y := by
  simp only [b2g, BitVec.ushiftRight_xor_distrib]
  ac_rfl

/-- In a run of ones from bit 0, only the highest one differs from the bit above it. -/
theorem b2g_two_pow_sub_one {j : Nat} (hj : j < 16) : b2g (BitVec.ofNat 16 (2 ^ (j + 1) - 1)) = BitVec.twoPow 16 j := by
  apply BitVec.eq_of_getLsbD_eq
  intro i hi
  have hbit (k : Nat) : (BitVec.ofNat 16 (2 ^ (j + 1) - 1)).getLsbD k = decide (k ≤ j) := by
    rw [BitVec.getLsbD_ofNat, Nat.testBit_two_pow_sub_one, ← Bool.decide_and]
    exact decide_eq_decide.2 (by omega)
  rw [b2g, BitVec.getLsbD_xor, BitVec.getLsbD_ushiftRight, hbit, hbit, BitVec.getLsbD_twoPow]
  grind

/-- Counting up by one flips the low ones and the zero above them; at the wrap there is no zero, and all n + 1 bits are ones. -/
theorem xor_succ_mod_two_pow (n : Nat) {x : Nat} (hx : x < 2 ^ (n + 1)) :
    ∃ j, j ≤ n ∧ x ^^^ (x + 1) % 2 ^ (n + 1) = 2 ^ (j + 1) - 1 := by
  induction n generalizing x with
  | zero => interval_cases x <;> exact ⟨0, le_rfl, rfl⟩
  | succ n ih =>
    obtain ⟨y, rfl | rfl⟩ := Nat.even_or_odd' x
    · refine ⟨0, Nat.zero_le _, ?_⟩
      rw [Nat.mod_eq_of_lt (by omega)]
      simpa [Nat.bit_val] using Nat.xor_bit false y true y
    · obtain ⟨j, hj, hxor⟩ := ih (x := y) (by omega)
      refine ⟨j + 1, Nat.succ_le_succ hj, ?_⟩
      have hodd : (2 * y + 1) ^^^ 2 * ((y + 1) % 2 ^ (n + 1)) = 2 * (2 ^ (j + 1) - 1) + 1 := by
        simpa [Nat.bit_val, hxor] using Nat.xor_bit true y false ((y + 1) % 2 ^ (n + 1))
      have hpos := Nat.two_pow_pos (j + 1)
      rw [Nat.pow_succ' (n := n + 1), show 2 * y + 1 + 1 = 2 * (y + 1) by ring, Nat.mul_mod_mul_left, hodd,
        Nat.pow_succ _ (j + 1)]
      omega

/-- Settles O37: a pointer and its successor differ in a run of ones from bit 0, whose gray code is one bit. -/
theorem neighbourGrayCodesDifferInOneBit : Obligations.NeighbourGrayCodesDifferInOneBit := by
  intro p x hx
  obtain ⟨j, hj, hxor⟩ := xor_succ_mod_two_pow p.k.val hx
  refine ⟨j, hj, ?_⟩
  rw [← b2g_xor, ← BitVec.ofNat_xor, Params.span, hxor, b2g_two_pow_sub_one (by omega)]
  exact BitVec.twoPow_eq 16 j

/-! The crossings (43_sync_steps R182 to R187) -/

theorem Port.syncTxw_of_armReq {o : Port} (h : o.armReq = true) :
    o.syncTxw p = { o with tx := o.tx.publishW p, txIe := true, armReq := false } := by
  simp [Port.syncTxw, txIeNext, h]

theorem Port.syncTxw_of_not_armReq {o : Port} (h : o.armReq = false) : o.syncTxw p = { o with tx := o.tx.publishW p } := by
  simp [Port.syncTxw, txIeNext, h]

theorem State.syncStep_of_bypassed {s : State} (h : s.params.sync = .bypassed) (c : Crossing) : s.syncStep c = s := by
  rw [State.syncStep, h]; rfl

theorem State.syncStep_of_chain {s : State} {n : Nat} (h : s.params.sync = .chain n) (c : Crossing) :
    s.syncStep c = { s with port := s.port.cross s.params c } := by
  rw [State.syncStep, h]; rfl

/-- Settles O33: the crossing by the pending arm, which it delivers or which is not there. -/
theorem syncTxwPublishesPointerAndArm : Obligations.SyncTxwPublishesPointerAndArm := by
  intro s n hsync
  rw [State.syncStep_of_chain hsync, ← grayOf_eq]
  refine ⟨fun harm => ?_, fun harm => ?_⟩
  · rw [Port.cross, Port.syncTxw_of_armReq _ harm]; rfl
  · rw [Port.cross, Port.syncTxw_of_not_armReq _ harm]; rfl

/-- Settles O34: each crossing's view is the gray code of its pointer, whose 2C is 8 in the examples. -/
theorem pointerCrossingsCopyGrayCode : Obligations.PointerCrossingsCopyGrayCode := by
  refine ⟨fun s n hsync => ?_, fun s n hsync hk => ?_⟩
  · simp only [← grayOf_eq]
    exact ⟨State.syncStep_of_chain hsync .txr, State.syncStep_of_chain hsync .rxw, State.syncStep_of_chain hsync .rxr⟩
  · have hspan : s.params.span = 8 := by rw [Params.span, hk]; rfl
    simp only [State.syncStep_of_chain hsync, Port.cross]
    refine ⟨fun hptr _ => ?_, fun hptr => ?_, fun hptr => ?_⟩
    · rw [Port.syncTxr_tx, Queue.publishR_rsync, grayOf_eq, hptr, hspan]; decide
    · rw [Port.syncRxw_rx, Queue.publishW_wsync, grayOf_eq, hptr, hspan]; decide
    · rw [Port.syncRxr_rx, Queue.publishR_rsync, grayOf_eq, hptr, hspan]; decide

/-- Settles O35: the crossing of the flag is the whole step. -/
theorem syncOvfCopiesFlag : Obligations.SyncOvfCopiesFlag :=
  fun _ _ hsync => State.syncStep_of_chain hsync .ovf

/-! The view of the overflow flag (43_sync_steps R187) -/

/-- ovf_h rises only to ovf, by SYNC.OVF or the eager sync, and ovf falls only together with it. -/
theorem PortMove.keeps_ovfH_le_ovf {p : Params} {o o' : Port} (h : PortMove p o o') (ho : o.ovfH = true → o.ovf = true) :
    o'.ovfH = true → o'.ovf = true := by
  cases h with
  | cross c _ => cases c with
    | ovf => exact id
    | txw | txr | rxw | rxr => exact ho
  | settle _ => exact id
  | setOvf _ _ => exact fun _ => rfl
  | clearOvf => exact nofun
  | powerOn => exact nofun
  | arm => rwa [Port.arm_ovfH, Port.arm_ovf]
  | outputs | unhold | hold | pushTx | popRx | disarm | popTx | readByte | pushRx | enableRx => exact ho

/-- Settles O48: every elementary move of an instance keeps ovf_h from being ahead of ovf. -/
theorem overflowViewNeverAhead : Obligations.OverflowViewNeverAhead :=
  fun s t hc h => step_keeps_allPorts _ s t h hc fun _ _ hm => hm.keeps_ovfH_le_ovf

/-! One clock domain (43_sync_steps R181) -/

theorem Port.settled_iff : o.settled p = true ↔
    o.tx.wsync = grayOf p o.tx.wptr ∧ o.rx.wsync = grayOf p o.rx.wptr ∧ o.tx.rsync = grayOf p o.tx.rptr ∧
      o.rx.rsync = grayOf p o.rx.rptr ∧ o.ovfH = o.ovf := by
  simp only [Port.settled, Bool.and_eq_true, beq_iff_eq]
  tauto

theorem Port.settled_settle : (o.settle p).settled p = true := by simp [Port.settled_iff]

theorem Port.settled_powerOn : o.powerOn.settled p = true := by simp [Port.settled_iff, Queue.reset]

theorem Port.counts_of_settled {p : Params} {o : Port} (h : o.settled p = true) :
    (o.tx.pcount p = o.tx.tcount p ∧ o.tx.ccount p = o.tx.tcount p) ∧
    (o.rx.pcount p = o.rx.tcount p ∧ o.rx.ccount p = o.rx.tcount p) := by
  rw [← Port.settle_of_settled p o h]
  simp

theorem PortMove.keeps_armReq_false {p : Params} {o o' : Port} (hsync : p.sync = .bypassed) (h : PortMove p o o')
    (ho : o.armReq = false) : o'.armReq = false := by
  cases h with
  | arm => rw [Port.arm_of_bypassed hsync]; exact ho
  | cross c _ => cases c with
    | txw => rfl
    | txr | rxw | rxr | ovf => exact ho
  | powerOn => rfl
  | outputs | unhold | hold | pushTx | popRx | disarm | popTx | readByte | setOvf | pushRx | enableRx | clearOvf | settle =>
    exact ho

end

theorem runEvent_of_absent {e : Event} {k : Nat} {s : State} (he : eventTarget e = some k) (hk : ¬ k < s.nports) :
    runEvent e s = .next s := by
  cases e with
  | host | device | complete | sync | timeout | driver => cases he; exact if_neg hk
  | call | reset => cases he

/-- An event moves the instance it selects, leaves every instance as it was where it finds none, or is a power-on reset. -/
theorem runEvent_cases (e : Event) {s u : State} (h : runEvent e s = .next u) :
    (∃ k, AtHand (s.select k) u) ∨ AtHand s u ∨ u = s.powerOn := by
  cases htarget : eventTarget e with
  | some k =>
    by_cases hk : k < s.nports
    · exact .inl ⟨k, runEvent_atHand e htarget hk h⟩
    · refine .inr (.inl ?_)
      rw [runEvent_of_absent htarget hk] at h
      cases h
      exact .refl s
  | none =>
    cases e with
    | call portId c =>
      cases h
      by_cases hfound : ∃ k, lookupPort s.params portId = some k ∧ k < s.nports
      · obtain ⟨k, hl, hk⟩ := hfound
        exact .inl ⟨k, apiCall_atHand c hl hk⟩
      · rw [apiCall_of_not_found portId c s fun k hl hk => hfound ⟨k, hl, hk⟩]
        exact .inr (.inl ⟨rfl, rfl, rfl, ⟨rfl, rfl⟩, .refl⟩)
    | reset => cases h; exact .inr (.inr rfl)
    | host | device | complete | sync | timeout | driver => cases htarget

/-- An instance not at hand after an event is as it was, or as after power-on. -/
theorem runEvent_others (e : Event) {s u : State} (h : runEvent e s = .next u) {o : Port} (ho : o ∈ u.others) :
    o ∈ s.ports ∨ ∃ o' : Port, o = o'.powerOn := by
  rcases runEvent_cases e h with ⟨k, hm⟩ | hm | rfl
  · rw [hm.others] at ho
    rw [← State.select_ports k s]
    exact .inl ((State.mem_ports _ o).2 (.inr ho))
  · rw [hm.others] at ho
    exact .inl ((s.mem_ports o).2 (.inr ho))
  · obtain ⟨o', _, rfl⟩ := List.mem_map.1 ho
    exact .inr ⟨o', rfl⟩

/-- With one clock domain a step ends with the instance at hand settled. -/
theorem step_settles_port {s t : State} (hsync : s.params.sync = .bypassed) (h : step s = .next t) :
    t.port.settled s.params = true := by
  obtain ⟨u, hu, rfl⟩ := step_next_cases s t h
  have hparams : u.params = s.params := (runEvent_portwise _ _ _ hu).1
  rw [State.settle_port, hparams, hsync, SyncStages.isBypassed, if_pos rfl]
  exact u.port.settled_settle s.params

theorem step_keeps_settled {s t : State} (hsync : s.params.sync = .bypassed) (h : step s = .next t)
    (hs : s.AllPorts fun o => o.settled s.params = true) : t.AllPorts fun o => o.settled s.params = true := by
  intro o ho
  rcases (t.mem_ports o).1 ho with rfl | hother
  · exact step_settles_port hsync h
  · obtain ⟨u, hu, rfl⟩ := step_next_cases s t h
    rw [State.settle_others] at hother
    rcases runEvent_others _ hu hother with hmem | ⟨o', rfl⟩
    · exact hs o hmem
    · exact o'.settled_powerOn _

/-- Settles O36: the eager sync settles the instance at hand, the others are as they were or reset, and counts of a settled instance
are counts of the pointers themselves. -/
theorem singleClockViewsFollowSources : Obligations.SingleClockViewsFollowSources := by
  refine ⟨fun s c hsync => State.syncStep_of_bypassed hsync c, fun s t hsync h => ?views, fun s t hc hsync h hs o ho => ?kept,
    fun p o => Port.counts_of_settled⟩
  case views =>
    simp only [← grayOf_eq, (step_portwise s t h).1]
    exact (Port.settled_iff _ _).1 (step_settles_port hsync h)
  case kept =>
    exact ⟨step_keeps_settled hsync h (fun a ha => (hs a ha).1) o ho,
      step_keeps_allPorts (fun a => a.armReq = false) s t h hc (fun _ _ hm => hm.keeps_armReq_false hsync)
        (fun a ha => (hs a ha).2) o ho⟩

/-! The TMO step (43_sync_steps R190) -/

section
variable {s : State} {i : Instr}

theorem State.timeoutStep_of_enabled {st : Status} (hheld : s.port.hreq = some i) (hst : timeoutStatus i = some st)
    (hexp : s.inputs.tmoExpired = true) (hcan : s.canComplete i = false) : s.timeoutStep = s.modPort (Port.endHeld st) := by
  simp [State.timeoutStep, State.timeoutAllowed, hheld, hst, hexp, hcan]

/-- There is no TMO step where nothing with a timeout is held, where the held request could complete, or before the time has run
(log entries 5 and 6). -/
theorem State.timeoutStep_of_not_enabled
    (h : s.inputs.tmoExpired = true → ∀ i, s.port.hreq = some i → timeoutStatus i = none ∨ s.canComplete i = true) :
    s.timeoutStep = s := by
  rcases timeoutStep_cases s with hsame | ⟨i, st, hheld, hst, hexp, hallowed, -⟩
  · exact hsame
  · rcases h hexp i hheld with hnone | hcan
    · cases hst.symm.trans hnone
    · simp [State.timeoutAllowed, hcan] at hallowed

theorem State.timeoutStep_of_canComplete (hheld : s.port.hreq = some i) (hcan : s.canComplete i = true) : s.timeoutStep = s :=
  State.timeoutStep_of_not_enabled fun _ k hk => by cases hheld.symm.trans hk; exact .inr hcan

end

theorem Port.endHeld_full_eq (o : Port) : o.endHeld .full = { o with hreq := none, hRsp := some 0x00000001 } := by
  rw [Port.endHeld, Port.respondHost_full_eq]

theorem Port.endHeld_empty_eq (o : Port) : o.endHeld .empty = { o with hreq := none, hRsp := some 0x00000002 } := by
  rw [Port.endHeld, Port.respondHost_empty_eq]

/-- Settles O32: each clause either meets the Enabled line of R190 or fails one of its conditions. -/
theorem timeoutEndsWait : Obligations.TimeoutEndsWait := by
  intro s
  refine ⟨fun b n hheld hexp => ⟨fun hfull => ?_, fun hroom => ?_⟩,
    fun n hheld hexp => ⟨fun hempty => ?_, fun hbyte => ?_⟩, fun h => ?_⟩
  · have hcan : s.canComplete (.enqTxWt b n) = false := Bool.eq_false_iff.2 (mt s.txHasRoom_iff.1 hfull)
    rw [State.timeoutStep_of_enabled hheld rfl hexp hcan, State.modPort, Port.endHeld_full_eq]
  · have hcan : s.canComplete (.enqTxWt b n) = true := s.txHasRoom_iff.2 hroom
    exact State.timeoutStep_of_canComplete hheld hcan
  · have hcan : s.canComplete (.deqRxWt n) = false :=
      Bool.eq_false_iff.2 (mt s.rxHasByte_iff.1 (Nat.not_lt.2 hempty.le))
    rw [State.timeoutStep_of_enabled hheld rfl hexp hcan, State.modPort, Port.endHeld_empty_eq]
  · have hcan : s.canComplete (.deqRxWt n) = true := s.rxHasByte_iff.2 (Nat.pos_of_ne_zero hbyte)
    exact State.timeoutStep_of_canComplete hheld hcan
  · refine State.timeoutStep_of_not_enabled fun hexp i hi => .inl ?_
    rcases h with hfree | ⟨b, hwf⟩ | hwf | hrunning
    · cases hfree.symm.trans hi
    · cases hwf.symm.trans hi; rfl
    · cases hwf.symm.trans hi; rfl
    · cases hrunning.symm.trans hexp

end Sys2Proof.Machine
end

section
/-! The Driver API's host sequences: the guards of a call, the moves of init, and the transactions of write and read
(44_host_sequences R200 to R217). -/

namespace Sys2Proof.Machine

section
variable {s : State} {portId i : Nat}

/-! The lookup and the guards of a call (R200, R203, R204) -/

theorem lookupPort_eq_none_iff {p : Params} : lookupPort p portId = none ↔ ∀ x ∈ p.portIds, x ≠ portId := by
  simp [lookupPort]

theorem portIds_getD_of_lookupPort {p : Params} (h : lookupPort p portId = some i) : p.portIds.getD i 0 = portId := by
  obtain ⟨hi, heq, -⟩ := List.findIdx?_eq_some_iff_getElem.1 h
  rw [List.getD_eq_getElem _ _ hi]
  exact eq_of_beq heq

theorem State.hostFree_iff : s.hostFree = true ↔ s.port.host.seq = none ∧ s.port.hreq = none := by
  simp [State.hostFree]

theorem apiCall_of_free (hl : lookupPort s.params portId = some i) (hi : i < s.nports)
    (hfree : (s.select i).hostFree = true) (c : ApiCall) : s.apiCall portId c = (s.select i).startCall c := by
  simp only [State.apiCall, hl, if_pos hi, if_pos hfree]

/-- A return where no sequence runs and nothing is awaited writes the result alone. -/
theorem State.apiReturn_of_idle (hseq : s.port.host.seq = none) (hawaits : s.port.host.awaiting = false) (r : ApiResult) :
    s.apiReturn r = { s with apiResult := some ⟨s.params.portIds.getD s.cur 0, r⟩ } := by
  rw [State.apiReturn, State.modHost, ← hseq, ← hawaits]

theorem State.select_portId (hl : lookupPort s.params portId = some i) (hi : i < s.nports) :
    (s.select i).params.portIds.getD (s.select i).cur 0 = portId := by
  rw [State.select_params, (s.select_spec i hi).2, portIds_getD_of_lookupPort hl]

theorem State.guarded_of_not_initialized (h : s.port.host.initialized = false) (q : HostSeq) :
    s.guarded q = s.apiReturn (.err .notConnected) := by
  simp [State.guarded, h]

end

/-- Settles O56: a failed lookup and the I/O guard answer before any sequence starts, and a return to an idle host writes only
the result. -/
theorem apiGuardsIssueNothing : Obligations.ApiGuardsIssueNothing := by
  refine ⟨fun s portId c h => ?noDevice, fun s portId i hl hi hfree hawaits => ?found⟩
  case noDevice =>
    exact apiCall_of_not_found portId c s fun k hk => by cases (lookupPort_eq_none_iff.2 h).symm.trans hk
  case found =>
    obtain ⟨hseq, -⟩ := State.hostFree_iff.1 hfree
    refine ⟨fun hinit c hc => ?notConnected, fun e => ?setAutocrlf⟩
    case notConnected =>
      obtain ⟨q, hguard⟩ : ∃ q, (s.select i).startCall c = (s.select i).guarded q := by
        rcases hc with ⟨bs, rfl⟩ | ⟨pol, bs, rfl⟩ | ⟨b, rfl⟩ | ⟨n, t, rfl⟩ | ⟨t, rfl⟩ <;> exact ⟨_, rfl⟩
      rw [apiCall_of_free hl hi hfree, hguard, State.guarded_of_not_initialized hinit, State.apiReturn_of_idle hseq hawaits,
        State.select_portId hl hi]
    case setAutocrlf =>
      have hreturn := State.apiReturn_of_idle (s := (s.select i).modHost fun h => { h with autocrlf := e }) hseq hawaits .done
      rw [apiCall_of_free hl hi hfree, State.startCall, hreturn, State.modHost_params, State.modHost_cur,
        State.select_portId hl hi, State.modHost]

/-! The two moves of init (R202) -/

theorem driverStep_of_response {s : State} {q : HostSeq} {r : RspWord} (hseq : s.port.host.seq = some q)
    (hfree : s.port.hreq = none) (hawaits : s.port.host.awaiting = true) (hrsp : s.port.hRsp = some r) :
    driverStep s = .next (s.takeResponse q r) := by
  simp [driverStep, hseq, hfree, hawaits, hrsp]

/-- A move that issues a well-formed request of port H runs the request, with port H's response cleared. -/
theorem driverStep_runs_issued {s : State} {q : HostSeq} {i : Instr} (hseq : s.port.host.seq = some q)
    (hfree : s.port.hreq = none) (hawaits : s.port.host.awaiting = false) (hmove : q.move s.port.host.autocrlf = .issue i)
    (hwf : i.wf = true) (hport : i.legalOn .host = true) :
    driverStep s = exec i ((s.modHost fun h => { h with awaiting := true }).accept .host) := by
  rw [driverStep_of_issue hseq hfree hawaits hmove, issueHost_of_free (s := s.modHost _) hfree,
    tryWord_of_ok (decode_of_spells (.encode hwf hport))]

theorem takeResponse_init (s : State) (r : RspWord) :
    s.takeResponse .init r = (s.modHost fun h => { h with initialized := true }).apiReturn .done := by
  simp [State.takeResponse, HostSeq.onResponse, HostSeq.marksInitialized]

/-- Settles O57: the first move runs ARMRX, which answers at once, and the second takes that answer. -/
theorem initEnablesReceive : Obligations.InitEnablesReceive := by
  intro s baud hidle
  obtain ⟨-, hfree⟩ := State.hostFree_iff.1 hidle
  have hissue := driverStep_runs_issued (s := s.startCall (.init baud)) (i := .armrx) rfl hfree rfl rfl rfl rfl
  rw [armrxEnablesReceive] at hissue
  refine ⟨_, _, hissue, driverStep_of_response rfl hfree rfl rfl, rfl, rfl, ?_⟩
  rw [takeResponse_init]
  exact ⟨rfl, rfl, rfl, rfl, rfl, rfl⟩

/-! One move of a play -/

section
variable {mode : WriteFailMode} {autocrlf : Bool} {n : Nat} {rs : List RspWord} {q q' : HostSeq}

theorem HostSeq.play_of_ret {r : ApiResult} (h : q.move autocrlf = .ret r) :
    HostSeq.play mode autocrlf (n + 1) rs q = ([], some r) := by
  rw [HostSeq.play, h]

theorem HostSeq.play_of_goto (h : q.move autocrlf = .goto q') :
    HostSeq.play mode autocrlf (n + 1) rs q = HostSeq.play mode autocrlf n rs q' := by
  rw [HostSeq.play, h]

theorem HostSeq.play_of_issue_goto {i : Instr} {r : RspWord} (hissue : q.move autocrlf = .issue i)
    (hgoto : q.onResponse mode r = .goto q') :
    HostSeq.play mode autocrlf (n + 1) (r :: rs) q =
      (i :: (HostSeq.play mode autocrlf n rs q').1, (HostSeq.play mode autocrlf n rs q').2) := by
  simp only [HostSeq.play, hissue, hgoto]

theorem HostSeq.play_of_issue_ret {i : Instr} {r : RspWord} {x : ApiResult} (hissue : q.move autocrlf = .issue i)
    (hret : q.onResponse mode r = .ret x) : HostSeq.play mode autocrlf (n + 1) (r :: rs) q = ([i], some x) := by
  simp only [HostSeq.play, hissue, hret]

end

/-! The write sequence (R205, R216, R217) -/

section
variable {mode : WriteFailMode} {autocrlf : Bool} {pol : Policy} {b : Byte} {rest : List Byte} {n m : Nat} {rs : List RspWord}
  {is : List Instr} {res : Option ApiResult}

/-- PUT b and the way on to the next input byte, both transactions answered OK. -/
theorem play_write_byte (h : HostSeq.play mode autocrlf m rs (.write pol rest (n + 1) .start) = (is, res)) :
    HostSeq.play mode autocrlf (m + 2) (0x00000000 :: 0x00000000 :: rs) (.write pol (b :: rest) n .byte) =
      (pol.enq b :: .armtx :: is, res) := by
  rw [HostSeq.play_of_issue_goto (q' := .write pol (b :: rest) n .armByte) rfl rfl,
    HostSeq.play_of_issue_goto (q' := .write pol rest (n + 1) .start) rfl rfl, h]

/-- PUT 0x0D of an autocrlf newline and the way on to the byte itself, both transactions answered OK. -/
theorem play_write_cr (h : HostSeq.play mode autocrlf m rs (.write pol (b :: rest) n .byte) = (is, res)) :
    HostSeq.play mode autocrlf (m + 2) (0x00000000 :: 0x00000000 :: rs) (.write pol (b :: rest) n .cr) =
      (pol.enq 0x0D :: .armtx :: is, res) := by
  rw [HostSeq.play_of_issue_goto (q' := .write pol (b :: rest) n .armCr) rfl rfl,
    HostSeq.play_of_issue_goto (q' := .write pol (b :: rest) n .byte) rfl rfl, h]

theorem move_write_of_newline (h : (autocrlf && b == 0x0A) = true) :
    (HostSeq.write pol (b :: rest) n .start).move autocrlf = .goto (.write pol (b :: rest) n .cr) := by
  rw [HostSeq.move, if_pos h]

theorem move_write_of_not_newline (h : ¬ (autocrlf && b == 0x0A) = true) :
    (HostSeq.write pol (b :: rest) n .start).move autocrlf = .goto (.write pol (b :: rest) n .byte) := by
  rw [HostSeq.move, if_neg h]

theorem putSequence_of_newline (h : (autocrlf && b == 0x0A) = true) :
    putSequence pol autocrlf b = [pol.enq 0x0D, .armtx, pol.enq b, .armtx] := by
  rw [putSequence, if_pos h]; rfl

theorem putSequence_of_not_newline (h : ¬ (autocrlf && b == 0x0A) = true) :
    putSequence pol autocrlf b = [pol.enq b, .armtx] := by
  rw [putSequence, if_neg h]; rfl

/-- One input byte is spelled as T(b), for some number of moves and of OK answers, and counted once. -/
theorem play_write_cons (h : HostSeq.play mode autocrlf m rs (.write pol rest (n + 1) .start) = (is, res)) (b : Byte) :
    ∃ m' k, HostSeq.play mode autocrlf m' (List.replicate k 0x00000000 ++ rs) (.write pol (b :: rest) n .start) =
      (putSequence pol autocrlf b ++ is, res) := by
  by_cases hnl : (autocrlf && b == 0x0A) = true
  · refine ⟨m + 5, 4, ?_⟩
    rw [HostSeq.play_of_goto (move_write_of_newline hnl), putSequence_of_newline hnl]
    exact play_write_cr (play_write_byte h)
  · refine ⟨m + 3, 2, ?_⟩
    rw [HostSeq.play_of_goto (move_write_of_not_newline hnl), putSequence_of_not_newline hnl]
    exact play_write_byte h

/-- The write sequence from any count on, all answered OK. -/
theorem play_write (mode : WriteFailMode) (autocrlf : Bool) (pol : Policy) (bytes : List Byte) (n : Nat) :
    ∃ moves rs, (∀ r ∈ rs, r = (0x00000000 : RspWord)) ∧
      HostSeq.play mode autocrlf moves rs (.write pol bytes n .start) =
        (bytes.flatMap (putSequence pol autocrlf), some (.count (n + bytes.length) [])) := by
  induction bytes generalizing n with
  | nil => exact ⟨1, [], nofun, HostSeq.play_of_ret rfl⟩
  | cons b rest ih =>
    obtain ⟨m, rs, hok, hplay⟩ := ih (n + 1)
    obtain ⟨m', k, hcons⟩ := play_write_cons hplay b
    refine ⟨m', _, fun r hr => ?_, hcons.trans ?_⟩
    · exact (List.mem_append.1 hr).elim List.eq_of_mem_replicate (hok r)
    · rw [List.flatMap_cons, List.length_cons, Nat.add_right_comm, Nat.add_assoc]

end

/-- Settles O59: the write sequence from the count 0. -/
theorem writeIssuesPutsInOrder : Obligations.WriteIssuesPutsInOrder := by
  intro mode autocrlf pol bytes
  simpa using play_write mode autocrlf pol bytes 0

/-! The read sequence (R209, R211) -/

section
variable {mode : WriteFailMode} {autocrlf : Bool} {pol : Policy} {maxLen : Nat} {buf bs : List Byte}

theorem move_read_of_room (h : buf.length < maxLen) : (HostSeq.read pol maxLen buf).move autocrlf = .issue pol.deq :=
  if_pos h

theorem move_read_of_max (h : buf.length = maxLen) :
    (HostSeq.read pol maxLen buf).move autocrlf = .ret (.count buf.length buf) :=
  if_neg (Nat.not_lt.2 h.ge)

theorem onResponse_read_ok (b : Byte) :
    (HostSeq.read pol maxLen buf).onResponse mode (response .ok b 0) = .goto (.read pol maxLen (buf ++ [b])) := by
  simp [HostSeq.onResponse, Status.code]

theorem onResponse_read_empty :
    (HostSeq.read pol maxLen buf).onResponse mode 0x00000002 = .ret (.count buf.length buf) := rfl

/-- The bytes of bs are read by one DEQ each, where they have room; then the sequence goes on with them in the buffer. -/
theorem play_read_bytes {m : Nat} {rs : List RspWord} {is : List Instr} {res : Option ApiResult}
    (hroom : buf.length + bs.length ≤ maxLen)
    (h : HostSeq.play mode autocrlf m rs (.read pol maxLen (buf ++ bs)) = (is, res)) :
    HostSeq.play mode autocrlf (bs.length + m) (bs.map (fun b => response .ok b 0) ++ rs) (.read pol maxLen buf) =
      (List.replicate bs.length pol.deq ++ is, res) := by
  induction bs generalizing buf with
  | nil => simpa using h
  | cons b bs ih =>
    rw [List.length_cons] at hroom
    have hrest := ih (buf := buf ++ [b]) (by rw [List.length_append, List.length_singleton]; omega)
      (by rwa [List.append_assoc, List.singleton_append])
    rw [List.length_cons, Nat.add_right_comm, List.map_cons, List.cons_append,
      HostSeq.play_of_issue_goto (move_read_of_room (by omega)) (onResponse_read_ok b), hrest]
    rfl

end

/-- Settles O60: after the bytes of bs, EMPTY ends the sequence on one more DEQ, and max_len before it. -/
theorem readStopsAtEmptyOrMax : Obligations.ReadStopsAtEmptyOrMax := by
  intro mode autocrlf pol maxLen bs
  refine ⟨fun hroom => ?empty, fun hmax => ?max⟩
  case empty =>
    rw [play_read_bytes (by simpa using hroom.le)
      (HostSeq.play_of_issue_ret (move_read_of_room hroom) onResponse_read_empty), List.replicate_succ']
    rfl
  case max =>
    have h := play_read_bytes (mode := mode) (autocrlf := autocrlf) (pol := pol) (buf := []) (rs := [])
      (by simpa using hmax.le) (HostSeq.play_of_ret (n := 0) (move_read_of_max hmax))
    simpa using h

end Sys2Proof.Machine
end

section
/-! Runs: every step answers a next state, the turn of each weakly fair event comes at every instance again and again, and a held
request whose condition stays true ends by then at the latest (60_exceptions R240, 43_sync_steps R189, log entry 16). -/

namespace Sys2Proof.Machine

theorem step_answers (s : State) : ∃ t, step s = .next t :=
  (runEvent_answers s.draw.event s.taken).imp' State.settle fun u hu => step_of_runEvent s u hu

/-! The turn of each fair event (R189) -/

/-- The place of a crossing's turn among the six of an instance; the complete step's is 5. -/
def crossingPlace : Crossing → Nat
  | .txw => 0
  | .txr => 1
  | .rxw => 2
  | .rxr => 3
  | .ovf => 4

theorem crossingPlace_lt (c : Crossing) : crossingPlace c < 6 := by cases c <;> decide

/-- The turn of instance i of n at a place of its six in a round. -/
def roundTurn (n i round place : Nat) : Nat := (round * n + i) * 6 + place

theorem roundTurn_mod_six (n i round : Nat) {place : Nat} (hp : place < 6) : roundTurn n i round place % 6 = place :=
  Nat.mul_add_mod_of_lt hp

section
variable {n i : Nat} (hi : i < n) (round : Nat)
include hi

theorem le_roundTurn (place : Nat) : round ≤ roundTurn n i round place := by
  have hround : round ≤ round * n := Nat.le_mul_of_pos_right round (Nat.zero_lt_of_lt hi)
  unfold roundTurn
  omega

theorem roundTurn_div_six_mod {place : Nat} (hp : place < 6) : roundTurn n i round place / 6 % n = i := by
  have hdiv : roundTurn n i round place / 6 = round * n + i := by unfold roundTurn; omega
  rw [hdiv, Nat.mul_add_mod_of_lt hi]

theorem fairEvent_crossing (c : Crossing) : fairEvent n (roundTurn n i round (crossingPlace c)) = .sync i c := by
  rw [fairEvent, roundTurn_mod_six n i round (crossingPlace_lt c), roundTurn_div_six_mod hi round (crossingPlace_lt c)]
  cases c <;> rfl

theorem fairEvent_complete : fairEvent n (roundTurn n i round 5) = .complete i := by
  rw [fairEvent, roundTurn_mod_six n i round (by decide), roundTurn_div_six_mod hi round (by decide)]
  rfl

end

/-! The turns of a run (R189) -/

section
variable {r : Run} (hr : IsRun r)
include hr

/-- After any step, every turn from some turn on comes: the placed draws come to an end, and no turn is waited for without end. -/
theorem run_turns_come (n : Nat) :
    ∃ j₀, ∀ j, j₀ ≤ j → ∃ m, n ≤ m ∧ (r m).draw.event = fairEvent (r 0).nports j := by
  let start := (r 0).tick + (n + (r 0).inbox.length)
  refine ⟨(fairTurn start).1, fun j hj => ?_⟩
  obtain ⟨tick, hle, hturn⟩ := fairTurn_all_come start (j - (fairTurn start).1)
  rw [Nat.add_sub_cancel' hj] at hturn
  obtain ⟨d, rfl⟩ := Nat.exists_eq_add_of_le hle
  have hinbox : (r (n + (r 0).inbox.length + d)).inbox = [] := by
    rw [run_inbox r hr]; exact List.drop_eq_nil_of_le (by omega)
  refine ⟨n + (r 0).inbox.length + d, by omega, ?_⟩
  rw [draw_of_turn _ j hinbox (by rw [run_tick r hr, ← Nat.add_assoc]; exact hturn), run_nports r hr]

theorem run_syncFair {i : Nat} (hi : i < (r 0).nports) : r.SyncFair i := by
  intro c n
  obtain ⟨j₀, hcome⟩ := run_turns_come hr n
  simpa [fairEvent_crossing hi j₀ c] using hcome _ (le_roundTurn hi j₀ (crossingPlace c))

theorem run_complete_comes {i : Nat} (hi : i < (r 0).nports) (n : Nat) :
    ∃ m, n ≤ m ∧ (r m).draw.event = .complete i := by
  obtain ⟨j₀, hcome⟩ := run_turns_come hr n
  simpa [fairEvent_complete hi j₀] using hcome _ (le_roundTurn hi j₀ 5)

/-! A held request at its complete step (40_queue_ops R116, R189) -/

/-- A request held d steps before a complete step of its instance is held up to a state where its condition is false, or up to a
step that releases it: at the latest that complete step. -/
theorem held_until_complete (hc : (r 0).CurOk) {i : Nat} {held : Instr} (hm : held.mayHold = true) (hw : held.wf = true)
    (d n : Nat) (hs : (r n).HeldAt i held) (he : (r (n + d)).draw.event = .complete i) :
    ∃ m, n ≤ m ∧ (∀ k, n ≤ k → k ≤ m → (r k).HeldAt i held) ∧
      (((r m).select i).canComplete held = false ∨ Released (r m).draw.event i (r (m + 1))) := by
  induction d generalizing n with
  | zero =>
    refine ⟨n, le_rfl, fun k h₁ h₂ => Nat.le_antisymm h₁ h₂ ▸ hs, ?_⟩
    exact (step_held _ _ (hr n) (run_curOk r hr hc n) i held hm hw hs).imp_left fun h => h.2 he
  | succ d ih =>
    rcases step_held _ _ (hr n) (run_curOk r hr hc n) i held hm hw hs with ⟨hnext, _⟩ | hreleased
    · obtain ⟨m, hle, hheld, hend⟩ := ih (n + 1) hnext (by rwa [Nat.add_right_comm])
      exact ⟨m, by omega, fun k h₁ h₂ => (Nat.eq_or_lt_of_le h₁).elim (fun h => h ▸ hs) (hheld k · h₂), hend⟩
    · exact ⟨n, le_rfl, fun k h₁ h₂ => Nat.le_antisymm h₁ h₂ ▸ hs, Or.inr hreleased⟩

theorem run_completeFair (hc : (r 0).CurOk) {i : Nat} (hi : i < (r 0).nports) : r.CompleteFair i := by
  intro n held hm hw hs
  obtain ⟨m, hle, hcomplete⟩ := run_complete_comes hr hi n
  obtain ⟨d, rfl⟩ := Nat.exists_eq_add_of_le hle
  exact held_until_complete hr hc hm hw d n hs hcomplete

end

/-- Settles O40: every step answers, the turns of the five crossings come, and a hold whose condition stays true ends by the turn
of the complete step. -/
theorem runsGoOnAndAreFair : Obligations.RunsGoOnAndAreFair :=
  ⟨step_answers, fun _ _ hr hi => run_syncFair hr hi, fun _ _ hr hc hi => run_completeFair hr hc hi⟩

end Sys2Proof.Machine
end

section
/-! Reset and the hazards of the transmit side: the reset state, what one step can do to an instance's TX queue and its two arm bits,
said once, and from it the armed-or-pending invariant and the hold that nothing ends (70_reset_and_hazards R270 to R273, R280 to
R282). -/

namespace Sys2Proof.Machine

/-! The reset state (70_reset_and_hazards R270, R273) -/

/-- Every instance of the machine after reset is in the reset values. -/
theorem State.resetWith_allPorts {p : Params} {P : Port → Prop} (h : P Port.reset) : (State.resetWith p).AllPorts P := by
  intro o ho
  rcases (State.mem_ports _ o).1 ho with rfl | hother
  · exact h
  · cases List.eq_of_mem_replicate hother
    exact h

theorem Queue.reset_liveWritten (p : Params) : Queue.reset.LiveWritten p := by simp [Queue.liveWritten_iff]

theorem Queue.reset_storageOk (p : Params) : Queue.reset.StorageOk p := ⟨Queue.reset_mem_wf, rfl⟩

theorem Queue.reset_inWidth (p : Params) : Queue.reset.InWidth p := by
  have hzero : (0 : Ptr).toNat < p.span := Nat.two_pow_pos _
  exact ⟨hzero, hzero, hzero, hzero⟩

theorem Port.reset_settled (p : Params) : Port.reset.settled p = true := Port.reset.settled_powerOn p

theorem Port.reset_armCovered (p : Params) : Port.reset.ArmCovered p := by simp [Port.ArmCovered, Port.reset]

theorem Port.reset_good (p : Params) : Port.reset.Good p :=
  ⟨⟨Queue.reset_ordered p, Queue.reset_ordered p⟩, ⟨Queue.reset_inWidth p, Queue.reset_inWidth p⟩,
    ⟨Queue.reset_storageOk p, Queue.reset_storageOk p⟩, ⟨Queue.reset_liveWritten p, Queue.reset_liveWritten p⟩,
    nofun, fun _ => ⟨Port.reset_settled p, rfl⟩⟩

/-- Settles O41: every instance is the reset one, and a reset queue's counts and views are all 0. -/
theorem resetLeavesTheSpecsValues : Obligations.ResetLeavesTheSpecsValues := by
  refine fun p => ⟨?values, fun hwf => ?nports, fun q a => by cases q <;> rfl⟩
  case values =>
    exact State.resetWith_allPorts ⟨⟨rfl, rfl, rfl, rfl⟩, ⟨rfl, rfl, rfl, rfl⟩, ⟨rfl, rfl, rfl, rfl, rfl, rfl⟩, ⟨rfl, rfl⟩,
      Queue.reset_ccount p, Queue.reset_ccount p, Port.reset_settled p⟩
  case nports =>
    have hne : p.portIds ≠ [] := (of_decide_eq_true hwf).1
    have hlen : 0 < p.portIds.length := List.length_pos_iff.2 hne
    simp only [State.nports, State.resetWith, List.length_replicate]
    omega

/-- Settles O43: each invariant holds of the reset instance, and there is an instance 0. -/
theorem resetIsGood : Obligations.ResetIsGood :=
  fun p => ⟨State.resetWith_allPorts (Port.reset_good p), State.resetWith_allPorts nofun,
    State.resetWith_allPorts (Port.reset_armCovered p), Nat.succ_pos _⟩

/-- The eager sync finds nothing to do after a power-on reset. -/
theorem State.settle_powerOn (s : State) : s.powerOn.settle = s.powerOn :=
  s.powerOn.settle_of_settled fun _ => Port.settled_powerOn _ _

/-- Settles O42: the step of a reset is the power-on of every instance. -/
theorem powerOnResetAbandonsEverything : Obligations.PowerOnResetAbandonsEverything := by
  intro s rest inp hin
  refine ⟨s.taken.powerOn, ?_, rfl, (powerOn_portwise s.taken).2.1, fun o ho => ?_⟩
  · rw [step_of_placed hin, ← State.settle_powerOn]; rfl
  · rw [powerOn_ports] at ho
    obtain ⟨before, _, rfl⟩ := List.mem_map.1 ho
    exact ⟨rfl, rfl, rfl, rfl, rfl, rfl, rfl, rfl, rfl, rfl, rfl, rfl, rfl, rfl⟩

/-! What one event can do to the transmit side of an instance: the TX queue, tx_ie, arm_req and a held ENQ.TX.WF -/

/-- An ENQ.TX.WF that is held stays held. -/
def Port.KeepsWf (o o' : Port) : Prop := ∀ b, o.hreq = some (.enqTxWf b) → o'.hreq = some (.enqTxWf b)

/-- The transmit side is left as it was. -/
structure TxSame (o o' : Port) : Prop where
  tx : o'.tx = o.tx
  txIe : o'.txIe = o.txIe
  armReq : o'.armReq = o.armReq
  held : o.KeepsWf o'

theorem TxSame.refl (o : Port) : TxSame o o := ⟨rfl, rfl, rfl, fun _ h => h⟩

theorem TxSame.withHost (o : Port) (r : HostRecord) : TxSame o { o with host := r } := ⟨rfl, rfl, rfl, fun _ h => h⟩

theorem accept_txSame (r : ReqPort) (s : State) : TxSame s.port (s.accept r).port :=
  ⟨by simp, by simp, by simp, fun _ hb => by simpa using hb⟩

/-- What event e may do to the transmit side of instance j, which it takes from o to o', with the condition it is taken under
(40_queue_ops R100, 41_device_service R130, 42_irq_and_flag R150, R159, 43_sync_steps R182, R183, 70_reset_and_hazards R270). The
eager sync that ends a step with one clock domain is no part of it. -/
inductive TxEffect (p : Params) (e : Event) (j : Nat) (o o' : Port) : Prop where
  | stay (h : TxSame o o')
  | enqueue (b : Byte) (hroom : o.tx.pcount p < p.cap) (htx : o'.tx = o.tx.enqueue p b) (hie : o'.txIe = o.txIe)
      (harm : o'.armReq = o.armReq)
  | dequeue (hen : o.txIe = true) (hbyte : 0 < o.tx.ccount p) (htx : o'.tx = o.tx.dequeue p) (hie : o'.txIe = o.txIe)
      (harm : o'.armReq = o.armReq)
  | disarm (hen : o.txIe = true) (hempty : o.tx.ccount p = 0) (htx : o'.tx = o.tx) (harm : o'.armReq = o.armReq)
  | arm (hfree : ∀ b, o.hreq ≠ some (.enqTxWf b)) (htx : o'.tx = o.tx) (hie : o'.txIe = (p.sync.isBypassed || o.txIe))
      (harm : o'.armReq = (!p.sync.isBypassed || o.armReq))
  | publishW (htx : o'.tx = o.tx.publishW p) (hie : o'.txIe = (o.armReq || o.txIe)) (harm : o'.armReq = false)
      (hheld : o.KeepsWf o')
  | publishR (hsync : p.sync ≠ .bypassed) (he : e = .sync j .txr) (htx : o'.tx = o.tx.publishR p) (hie : o'.txIe = o.txIe)
      (harm : o'.armReq = o.armReq) (hheld : o.KeepsWf o')
  | reset (he : e = .reset) (htx : o'.tx = Queue.reset) (hie : o'.txIe = false) (harm : o'.armReq = false)

section
variable {p : Params} {e : Event} {j : Nat} {o m o' : Port}

theorem TxEffect.refl (p : Params) (e : Event) (j : Nat) (o : Port) : TxEffect p e j o o := .stay (.refl o)

/-- A change outside the transmit side may come first. -/
theorem TxEffect.after (k : TxEffect p e j m o') (h : TxSame o m) : TxEffect p e j o o' := by
  obtain ⟨htx, hie, harm, hheld⟩ := h
  cases k with
  | stay h' =>
    exact .stay ⟨h'.tx.trans htx, h'.txIe.trans hie, h'.armReq.trans harm, fun b hb => h'.held b (hheld b hb)⟩
  | enqueue b hroom htx' hie' harm' => exact .enqueue b (htx ▸ hroom) (htx ▸ htx') (hie'.trans hie) (harm'.trans harm)
  | dequeue hen hbyte htx' hie' harm' =>
    exact .dequeue (hie ▸ hen) (htx ▸ hbyte) (htx ▸ htx') (hie'.trans hie) (harm'.trans harm)
  | disarm hen hempty htx' harm' => exact .disarm (hie ▸ hen) (htx ▸ hempty) (htx'.trans htx) (harm'.trans harm)
  | arm hfree htx' hie' harm' =>
    exact .arm (fun b hb => hfree b (hheld b hb)) (htx'.trans htx) (hie ▸ hie') (harm ▸ harm')
  | publishW htx' hie' harm' hheld' =>
    exact .publishW (htx ▸ htx') (harm ▸ hie ▸ hie') harm' fun b hb => hheld' b (hheld b hb)
  | publishR hsync he htx' hie' harm' hheld' =>
    exact .publishR hsync he (htx ▸ htx') (hie'.trans hie) (harm'.trans harm) fun b hb => hheld' b (hheld b hb)
  | reset he htx' hie' harm' => exact .reset he htx' hie' harm'

end

/-! The effect of each agent's move at its instance -/

section
variable {e : Event} {j : Nat} {s t : State}

/-- A request other than port D's is executed only where no ENQ.TX.WF is held. -/
theorem exec_txEffect {i : Instr} (hfree : (∀ b, s.port.hreq ≠ some (.enqTxWf b)) ∨ i.legalOn .device = true)
    (h : exec i s = .next t) : TxEffect s.params e j s.port t.port := by
  have hheld : s.port.KeepsWf t.port := fun b hb =>
    (exec_keeps_hreq_device i (hfree.resolve_left fun hno => hno b hb) s t h).trans hb
  cases exec_move i s t h with
  | enq b hroom => exact .enqueue b (s.txHasRoom_iff.1 hroom) rfl rfl rfl
  | txSend hen hbyte =>
    exact .dequeue (s.txsvcEnabled_iff.1 hen).1 (Nat.pos_of_ne_zero (s.txEmpty_eq_false_iff.1 hbyte)) rfl rfl rfl
  | txIdle hen hempty => exact .disarm (s.txsvcEnabled_iff.1 hen).1 (s.txEmpty_iff.1 hempty) rfl rfl
  | arm hi =>
    have hhost : ¬ i.legalOn .device = true := by rw [hi]; decide
    exact .arm (hfree.resolve_right hhost) (by simp) (s.port.arm_txIe s.params) (s.port.arm_armReq s.params)
  | notEnabled | answer | hold | deq | rxDrop | rxStore | enableRx | clearOvf =>
    exact .stay ⟨by simp, by simp, by simp, hheld⟩

theorem tryWord_txEffect {r : ReqPort} {w : ReqWord} {tmo : Tmo}
    (hfree : (∀ b, s.port.hreq ≠ some (.enqTxWf b)) ∨ r = .device) (h : tryWord r w tmo s = .next t) :
    TxEffect s.params e j s.port t.port := by
  rcases tryWord_cases r w tmo s with ⟨i, hd, hi⟩ | ⟨_, _, he⟩
  · exact exec_txEffect (hfree.imp_right fun hr => by subst hr; exact decode_device_legal w tmo i hd) (hi ▸ h)
  · cases he.symm.trans h
    exact .stay ⟨by simp, by simp, by simp, fun _ hb => by simpa using hb⟩

theorem issueHost_txEffect {w : ReqWord} {tmo : Tmo} (h : issueHost w tmo s = .next t) :
    TxEffect s.params e j s.port t.port := by
  rcases issueHost_cases w tmo s with ⟨_, hi⟩ | ⟨hnone, hi⟩ <;> rw [hi] at h
  · cases h; exact .refl _ _ _ _
  · exact (tryWord_txEffect (.inl (by simp [hnone])) h).after (accept_txSame .host s)

theorem hostWord_txEffect {w : ReqWord} {tmo : Tmo} (h : hostWord w tmo s = .next t) :
    TxEffect s.params e j s.port t.port := by
  unfold hostWord at h
  split_ifs at h
  · cases h; exact .refl _ _ _ _
  · exact issueHost_txEffect h

theorem issueDevice_txEffect {w : ReqWord} (h : issueDevice w s = .next t) : TxEffect s.params e j s.port t.port :=
  (tryWord_txEffect (.inr rfl) h).after (accept_txSame .device s)

/-- A held ENQ.TX.WF completes where its producer sees room and is held again where it does not. -/
theorem completeHeld_txEffect (h : completeHeld s = .next t) : TxEffect s.params e j s.port t.port := by
  rcases completeHeld_cases s with ⟨_, hi⟩ | ⟨i, hheld, hi⟩
  · cases hi.symm.trans h; exact .refl _ _ _ _
  · by_cases hwf : ∃ b, i = .enqTxWf b
    · obtain ⟨b, rfl⟩ := hwf
      cases hroom : s.txHasRoom with
      | true =>
        have hdone : exec (.enqTxWf b) { s with port := { s.port with hreq := none } } = .next (State.enqDone b _) :=
          exec_enq_of_room (.inr (.inl rfl)) (s.txHasRoom_iff.1 hroom)
        cases (hi.trans hdone).symm.trans h
        exact .enqueue b (s.txHasRoom_iff.1 hroom) rfl rfl rfl
      | false =>
        cases ((heldRequestCompletes s _ hheld rfl rfl).2 hroom).symm.trans h
        exact .refl _ _ _ _
    · have heffect := exec_txEffect (e := e) (j := j) (.inl fun b => by simp) (hi.symm.trans h)
      exact heffect.after ⟨rfl, rfl, rfl, fun b hb => absurd ⟨b, Option.some.inj (hheld.symm.trans hb)⟩ hwf⟩

/-- A held ENQ.TX.WF has no timeout (43_sync_steps R190). -/
theorem timeoutStep_txEffect : TxEffect s.params e j s.port s.timeoutStep.port := by
  rcases timeoutStep_cases s with h | ⟨i, st, hheld, hst, _, _, h⟩ <;> rw [h]
  · exact .refl _ _ _ _
  · refine .stay ⟨rfl, rfl, rfl, fun b hb => ?_⟩
    cases hheld.symm.trans hb
    cases hst

theorem syncStep_txEffect (c : Crossing) : TxEffect s.params (.sync j c) j s.port (s.syncStep c).port := by
  cases hsync : s.params.sync with
  | bypassed => rw [State.syncStep_of_bypassed hsync]; exact .refl _ _ _ _
  | chain n =>
    rw [State.syncStep_of_chain hsync]
    cases c with
    | txw => exact .publishW rfl (by simp [Port.cross, txIeNext]) rfl fun _ hb => hb
    | txr => exact .publishR (by simp [hsync]) rfl rfl rfl rfl fun _ hb => hb
    | rxw | rxr | ovf => exact .stay ⟨rfl, rfl, rfl, fun _ hb => hb⟩

theorem driverStep_txEffect (h : driverStep s = .next t) : TxEffect s.params e j s.port t.port := by
  rcases driverStep_cases s with hd | ⟨q, r, _, _, hd⟩ | ⟨q, i, _, _, _, hd⟩ | ⟨q, _, hd⟩ | ⟨res, _, hd⟩ <;> rw [hd] at h
  · cases h; exact .refl _ _ _ _
  · cases h
    unfold State.takeResponse
    split <;> exact .stay (.withHost _ _)
  · exact (issueHost_txEffect h).after (.withHost _ _)
  · cases h; exact .stay (.withHost _ _)
  · cases h; exact .stay (.withHost _ _)

theorem startCall_txSame (c : ApiCall) (s : State) : TxSame s.port (s.startCall c).port := by
  have guarded (q : HostSeq) : TxSame s.port (s.guarded q).port := by
    unfold State.guarded
    split_ifs <;> exact .withHost _ _
  cases c with
  | write | writeWith | putchar | read | getchar => exact guarded _
  | init | setAutocrlf | rxOverflow | clearRxOverflow => exact .withHost _ _

end

/-! Instance by instance -/

/-- The effect of an event at the instance it names. -/
theorem runEvent_txEffect_of_target {e : Event} {k : Nat} {s u : State} (he : eventTarget e = some k) (hk : k < s.nports)
    (h : runEvent e s = .next u) : TxEffect s.params e k (s.select k).port u.port := by
  have at_hand {f : State → Host.Outcome State Fault Refusal} (hf : onInstance k f s = .next u) :
      f (s.select k) = .next u := (onInstance_of_lt hk f).symm.trans hf
  rw [← State.select_params k s]
  cases e with
  | host i w tmo => cases he; exact hostWord_txEffect (at_hand h)
  | device i w => cases he; exact issueDevice_txEffect (at_hand h)
  | complete i => cases he; exact completeHeld_txEffect (at_hand h)
  | driver i => cases he; exact driverStep_txEffect (at_hand h)
  | sync i c => cases he; cases at_hand (f := fun t => .next (t.syncStep c)) h; exact syncStep_txEffect c
  | timeout i => cases he; cases at_hand (f := fun t => .next t.timeoutStep) h; exact timeoutStep_txEffect
  | call | reset => cases he

/-- Moves of instance k, once it is selected, that have an effect there have that effect, or none, at every instance. -/
theorem AtHand.txEffect {e : Event} {k j : Nat} {s u : State} {o o' : Port} (h : AtHand (s.select k) u) (hk : k < s.nports)
    (hc : s.CurOk) (heffect : TxEffect s.params e k (s.select k).port u.port) (ho : s.ports[j]? = some o)
    (ho' : u.ports[j]? = some o') : TxEffect s.params e j o o' := by
  rw [← State.select_ports k s] at ho
  rcases h.port_cases (s.select_curOk k hc) j o o' ho ho' with ⟨hj, rfl, rfl⟩ | rfl
  · rw [hj, (s.select_spec k hk).2]; exact heffect
  · exact .refl _ _ _ _

theorem TxEffect.of_ports {p : Params} {e : Event} {j : Nat} {s u : State} {o o' : Port} (h : u.ports = s.ports)
    (ho : s.ports[j]? = some o) (ho' : u.ports[j]? = some o') : TxEffect p e j o o' := by
  rw [h, ho] at ho'
  cases ho'
  exact .refl _ _ _ _

theorem runEvent_txEffect {e : Event} {j : Nat} {s u : State} {o o' : Port} (hc : s.CurOk) (h : runEvent e s = .next u)
    (ho : s.ports[j]? = some o) (ho' : u.ports[j]? = some o') : TxEffect s.params e j o o' := by
  cases htarget : eventTarget e with
  | some k =>
    by_cases hk : k < s.nports
    · exact (runEvent_atHand e htarget hk h).txEffect hk hc (runEvent_txEffect_of_target htarget hk h) ho ho'
    · cases (runEvent_of_absent htarget hk).symm.trans h
      exact .of_ports rfl ho ho'
  | none =>
    cases e with
    | call portId c =>
      cases h
      by_cases hfound : ∃ k, lookupPort s.params portId = some k ∧ k < s.nports
      · obtain ⟨k, hl, hk⟩ := hfound
        refine (apiCall_atHand c hl hk).txEffect hk hc ?_ ho ho'
        simp only [State.apiCall, hl, if_pos hk]
        split_ifs
        · exact .stay (startCall_txSame c _)
        · exact .refl _ _ _ _
      · rw [apiCall_of_not_found portId c s fun k hl hk => hfound ⟨k, hl, hk⟩] at ho'
        exact .of_ports rfl ho ho'
    | reset =>
      cases h
      rw [powerOn_ports, List.getElem?_map, ho] at ho'
      cases ho'
      exact .reset rfl rfl rfl rfl
    | host | device | complete | sync | timeout | driver => cases htarget

/-- What a step does to an instance: its event's effect on the transmit side, then the eager sync or nothing. -/
theorem step_txEffect {j : Nat} {s t : State} {o o' : Port} (hc : s.CurOk) (h : step s = .next t)
    (ho : s.ports[j]? = some o) (ho' : t.ports[j]? = some o') :
    ∃ m, TxEffect s.params s.draw.event j o m ∧ (o' = m ∨ s.params.sync = .bypassed ∧ o' = m.settle s.params) := by
  obtain ⟨u, hu, rfl⟩ := step_next_cases s t h
  obtain ⟨hparams, _, hcurOk, _⟩ := runEvent_portwise _ _ _ hu
  obtain ⟨m, hm, _⟩ := (settle_atHand u).portwise.2.2.2 (hcurOk hc) j o' ho'
  refine ⟨m, runEvent_txEffect (s := s.taken) hc hu ho hm, ?_⟩
  rcases (settle_atHand u).port_cases (hcurOk hc) j m o' hm ho' with ⟨_, rfl, rfl⟩ | hsame
  · have hp : u.params = s.params := hparams
    rw [State.settle_port, hp]
    cases s.params.sync with
    | bypassed => exact .inr ⟨rfl, rfl⟩
    | chain => exact .inl rfl
  · exact .inl hsame

/-! The armed-or-pending invariant (70_reset_and_hazards R282) -/

theorem ptrInc_ne (p : Params) (v : Ptr) : ptrInc p v ≠ v := by
  intro h
  have hval : ptrVal p (ptrInc p v) = ptrVal p v := by rw [h]
  have hcap := cap_pos p
  have hspan := span_eq p
  rw [ptrVal_ptrInc, succ_mod_span p _ (ptrVal_lt p v)] at hval
  split_ifs at hval <;> omega

section
variable {p : Params} {e : Event} {j : Nat} {o o' : Port}

/-- Cover asks for an arm only where there are bytes, and for a pending one only where the consumer's view is old. -/
theorem Port.ArmCovered.settle (h : o.ArmCovered p) : (o.settle p).ArmCovered p := ⟨h.1, by simp⟩

/-- An effect that enqueues nothing keeps the cover. The one that matters is the disarm: it finds ccount = 0, so a byte it leaves
behind is one that TX.wsync does not show yet, and for that the arm is still pending. -/
theorem TxEffect.keeps_armCovered (h : TxEffect p e j o o') (ho : o.tx.Ordered p) (hcov : o.ArmCovered p)
    (hw : o'.tx.wptr = o.tx.wptr) : o'.ArmCovered p := by
  obtain ⟨hcount, _, _⟩ := ho
  obtain ⟨harmed, hpending⟩ := hcov
  unfold Port.ArmCovered
  cases h with
  | stay h => rw [h.tx, h.txIe, h.armReq]; exact ⟨harmed, hpending⟩
  | enqueue b _ htx => rw [htx] at hw; exact absurd hw (ptrInc_ne p _)
  | dequeue _ hbyte htx hie harm =>
    rw [htx, hie, harm, Queue.tcount_dequeue p _ (by omega), Queue.ccount_dequeue p _ hbyte]
    exact ⟨fun h => harmed (by omega), fun h => hpending (by omega)⟩
  | disarm _ hempty htx harm =>
    rw [htx, harm]
    exact ⟨fun h => .inr (hpending (by omega)), hpending⟩
  | arm _ htx hie harm =>
    rw [htx, hie, harm]
    exact ⟨fun _ => by cases p.sync.isBypassed <;> simp, fun h => by simp [hpending h]⟩
  | publishW htx hie harm =>
    rw [htx, hie, harm]
    exact ⟨fun h => by simpa [or_comm] using harmed h, by simp⟩
  | publishR _ _ htx hie harm => rw [htx, hie, harm]; exact ⟨harmed, hpending⟩
  | reset _ htx => rw [htx]; simp

/-- ARMTX covers whatever is queued: in two clock domains an arm is pending, in one the views are current and tx_ie is set. -/
theorem Port.arm_armCovered (h : p.sync = .bypassed → o.settled p = true) : (o.arm p).ArmCovered p := by
  cases hsync : p.sync with
  | bypassed =>
    obtain ⟨⟨_, hview⟩, _⟩ := Port.counts_of_settled (h hsync)
    rw [Port.arm_of_bypassed hsync]
    exact ⟨fun _ => .inl rfl, fun hold => absurd hview hold⟩
  | chain n =>
    rw [Port.arm_of_chain hsync]
    exact ⟨fun _ => .inr rfl, fun _ => rfl⟩

end

/-- Settles O53: the event's effect keeps the cover unless it enqueues, the eager sync keeps it, and ARMTX sets it up. -/
theorem armCoverageKept : Obligations.ArmCoverageKept := by
  refine ⟨fun s t j o o' hc h ho ho' hord _ hcov hw => ?_, fun s hsettled => ⟨_, exec_armtx s, Port.arm_armCovered hsettled⟩⟩
  obtain ⟨m, heffect, rfl | ⟨_, rfl⟩⟩ := step_txEffect hc h ho ho'
  · exact heffect.keeps_armCovered hord hcov hw
  · exact (heffect.keeps_armCovered hord hcov hw).settle

/-! The hold that nothing ends (70_reset_and_hazards R281, log entry 17) -/

/-- An ENQ.TX.WF of b is held with no interrupt armed and no arm pending. -/
structure Port.HeldUnarmed (b : Byte) (o : Port) : Prop where
  held : o.hreq = some (.enqTxWf b)
  txIe : o.txIe = false
  armReq : o.armReq = false

section
variable {p : Params} {e : Event} {j : Nat} {b : Byte} {o o' : Port}

/-- Nothing but a reset dequeues or arms while an ENQ.TX.WF is held unarmed: it completes where its producer sees room, or stays
held while at most a view of TX moves. -/
theorem TxEffect.of_heldUnarmed (h : TxEffect p e j o o') (ho : o.HeldUnarmed b) (he : e ≠ .reset) :
    (o.tx.pcount p < p.cap ∧ o'.tx.rptr = o.tx.rptr ∧ o'.txIe = false ∧ o'.armReq = false) ∨
    (o'.HeldUnarmed b ∧ (o'.tx = o.tx ∨ o'.tx = o.tx.publishW p ∨
      p.sync ≠ .bypassed ∧ e = .sync j .txr ∧ o'.tx = o.tx.publishR p)) := by
  obtain ⟨hheld, hie, harm⟩ := ho
  cases h with
  | stay h => exact .inr ⟨⟨h.held b hheld, h.txIe.trans hie, h.armReq.trans harm⟩, .inl h.tx⟩
  | enqueue c hroom htx hie' harm' => exact .inl ⟨hroom, by rw [htx]; rfl, hie'.trans hie, harm'.trans harm⟩
  | dequeue hen => cases hie.symm.trans hen
  | disarm hen => cases hie.symm.trans hen
  | arm hfree => exact absurd hheld (hfree b)
  | publishW htx hie' harm' hheld' => exact .inr ⟨⟨hheld' b hheld, by simp [hie', hie, harm], harm'⟩, .inr (.inl htx)⟩
  | publishR hsync he' htx hie' harm' hheld' =>
    exact .inr ⟨⟨hheld' b hheld, hie'.trans hie, harm'.trans harm⟩, .inr (.inr ⟨hsync, he', htx⟩)⟩
  | reset he' => exact absurd he' he

theorem TxEffect.keeps_unarmed (h : TxEffect p e j o o') (ho : o.HeldUnarmed b) (he : e ≠ .reset) :
    o'.tx.rptr = o.tx.rptr ∧ o'.txIe = false ∧ o'.armReq = false := by
  rcases h.of_heldUnarmed ho he with ⟨_, hdone⟩ | ⟨⟨_, hie, harm⟩, htx | htx | ⟨_, _, htx⟩⟩
  · exact hdone
  all_goals exact ⟨by simp [htx], hie, harm⟩

theorem Port.HeldUnarmed.settle (h : o.HeldUnarmed b) : (o.settle p).HeldUnarmed b := ⟨h.held, h.txIe, h.armReq⟩

theorem Port.stuckFull_iff :
    o.StuckFull p b ↔ o.HeldUnarmed b ∧ o.tx.Ordered p ∧ o.tx.tcount p = p.cap :=
  ⟨fun ⟨hord, hfull, hheld, hie, harm⟩ => ⟨⟨hheld, hie, harm⟩, hord, hfull⟩,
    fun ⟨⟨hheld, hie, harm⟩, hord, hfull⟩ => ⟨hord, hfull, hheld, hie, harm⟩⟩

theorem Port.StuckFull.settle (h : o.StuckFull p b) : (o.settle p).StuckFull p b := by
  rw [Port.stuckFull_iff] at h ⊢
  obtain ⟨hheld, hord, hfull⟩ := h
  exact ⟨hheld.settle, hord.publishW.publishR, hfull⟩

/-- The producer's view is never below the true count, so a full queue shows it no room; and a view that moves changes no pointer. -/
theorem TxEffect.keeps_stuckFull (h : TxEffect p e j o o') (ho : o.StuckFull p b) (he : e ≠ .reset) : o'.StuckFull p b := by
  rw [Port.stuckFull_iff] at ho ⊢
  obtain ⟨hheld, hord, hfull⟩ := ho
  have hfullP : ¬ o.tx.pcount p < p.cap := by obtain ⟨_, htp, _⟩ := hord; omega
  rcases h.of_heldUnarmed hheld he with ⟨hroom, _⟩ | ⟨hheld', htx | htx | ⟨_, _, htx⟩⟩
  · exact absurd hroom hfullP
  · rw [htx]; exact ⟨hheld', hord, hfull⟩
  · rw [htx]; exact ⟨hheld', hord.publishW, hfull⟩
  · rw [htx]; exact ⟨hheld', hord.publishR, hfull⟩

/-- Where the producer's view shows no room, only its own crossing can change what it shows. -/
theorem TxEffect.keeps_unseenRoom (h : TxEffect p e j o o') (ho : o.HeldUnarmed b) (he : e ≠ .reset)
    (htxr : p.sync ≠ .bypassed → e ≠ .sync j .txr) (hfull : ¬ o.tx.pcount p < p.cap) :
    o'.HeldUnarmed b ∧ o'.tx.pcount p = o.tx.pcount p ∧ o'.tx.rsync = o.tx.rsync ∧ o'.tx.rptr = o.tx.rptr := by
  rcases h.of_heldUnarmed ho he with ⟨hroom, _⟩ | ⟨hheld, htx | htx | ⟨hsync, he', _⟩⟩
  · exact absurd hroom hfull
  · rw [htx]; exact ⟨hheld, rfl, rfl, rfl⟩
  · rw [htx]; exact ⟨hheld, rfl, rfl, rfl⟩
  · exact absurd he' (htxr hsync)

end

theorem Queue.pcount_of_current {p : Params} {q : Queue} (h : q.rsync = grayOf p q.rptr) : q.pcount p = q.tcount p := by
  simp [Queue.pcount, Queue.tcount, h]

/-- Settles O54: while the ENQ is held unarmed, a step other than a reset moves at most views of TX, so a full queue stays full, and
SYNC.TXR alone changes the room its producer sees. -/
theorem fullAndUnarmedWaitsForever : Obligations.FullAndUnarmedWaitsForever := by
  refine ⟨fun s t j o o' b hc h he ho ho' hheld hie harm => ?full,
    fun s t j o o' b hc h he htxr ho ho' hheld hie harm hroom hview => ?unseen, fun p q hord hview hroom => ?current,
    fun p o b hcov hstuck => ?covered⟩
  case full =>
    obtain ⟨m, heffect, hlast⟩ := step_txEffect hc h ho ho'
    obtain ⟨hrptr, hie', harm'⟩ := heffect.keeps_unarmed ⟨hheld, hie, harm⟩ he
    rcases hlast with rfl | ⟨_, rfl⟩
    · exact ⟨hrptr, hie', harm', fun hstuck => heffect.keeps_stuckFull hstuck he⟩
    · exact ⟨hrptr, hie', harm', fun hstuck => (heffect.keeps_stuckFull hstuck he).settle⟩
  case unseen =>
    obtain ⟨m, heffect, hlast⟩ := step_txEffect hc h ho ho'
    obtain ⟨⟨hheld', hie', harm'⟩, hpcount, hrsync, hrptr⟩ := heffect.keeps_unseenRoom ⟨hheld, hie, harm⟩ he htxr hroom
    have hview' : s.params.sync = .bypassed → m.tx.rsync = grayOf s.params m.tx.rptr := by rwa [hrsync, hrptr]
    rw [← hpcount] at hroom
    rcases hlast with rfl | ⟨hsync, rfl⟩
    · exact ⟨hheld', hie', harm', hroom, hview'⟩
    · refine ⟨hheld', hie', harm', ?_, fun _ => rfl⟩
      rwa [Port.settle_tx, Queue.pcount_publishR, Queue.tcount_publishW, ← Queue.pcount_of_current (hview' hsync)]
  case current =>
    obtain ⟨_, _, hcap⟩ := hord
    have hcount := Queue.pcount_of_current hview
    omega
  case covered =>
    obtain ⟨_, hfull, _, hie, harm⟩ := hstuck
    have hbyte : 0 < o.tx.tcount p := hfull ▸ cap_pos p
    rcases hcov.1 hbyte with harmed | hpending
    · cases hie.symm.trans harmed
    · cases harm.symm.trans hpending

end Sys2Proof.Machine
end
